-- ==== Sys2Proof/Word.lean ====
section
/-! DEFINITION. The widths of the core's vectors (00_scope.md R6): every value is an unsigned bit
vector, read with its most significant bit first (R8). -/

namespace Sys2Proof

/-- A byte: an S-box entry, or one of the 64 bytes of a state vector (R9). -/
abbrev Byte := BitVec 8

/-- A 64-bit sub-block: a row constant of the linear transform, or a `word(v, j)` (R9). -/
abbrev Word64 := BitVec 64

/-- A 512-bit vector: `W` of R6, the width of `H`, `N`, `SIGMA`, `din` and every block. -/
abbrev Word512 := BitVec 512

/-- The digest: `DW` of R6. -/
abbrev Digest := BitVec 256

/-- A command word `cmd[15:0]` (30_encoding.md R70). -/
abbrev CmdWord := BitVec 16

/-- `ZERO512` of R10. -/
abbrev zero512 : Word512 := 0#512

end Sys2Proof
end

