-- ==== Sys2Proof/Syntax.lean ====
section
/-! DEFINITION. The commands of the core, one constructor per row of spec/opcode_table.json
(30_encoding.md R73). `din` is no field of a command (R71): the core latches it beside the word. -/

namespace Sys2Proof

/-- A legal command (30_encoding.md R73, R77). -/
inductive Instr where
  /-- `NOP`, 43_commands.md R171. -/
  | nop
  /-- `INIT`, 43_commands.md R172. -/
  | init
  /-- `BLOCK`, 43_commands.md R173: its block is the latched `din`. -/
  | block
  /-- `LAST`, 43_commands.md R174: `len` is the tail length in bits, 0 to 511 (R74). -/
  | last (len : BitVec 9)
  deriving DecidableEq, Repr

end Sys2Proof
end

