-- ==== Sys2Proof/Decode.lean ====
section
/-! DEFINITION. Decoding and encoding of command words (30_encoding.md R70 to R79). Decoding is total
(R76): each of the 65536 words is one command or is rejected by name. -/

namespace Sys2Proof

/-- `OP = cmd[15:12]` (R70). -/
def opField (c : CmdWord) : BitVec 4 := c.extractLsb' 12 4

/-- `RSV = cmd[11:9]` (R70). -/
def rsvField (c : CmdWord) : BitVec 3 := c.extractLsb' 9 3

/-- `LEN = cmd[8:0]`, neither scaled nor shifted (R74). -/
def lenField (c : CmdWord) : BitVec 9 := c.extractLsb' 0 9

/-- Why a word is illegal (R76, R78). The core reports all three as ILLEGAL_CMD
(60_exceptions.md R223); the names are the model's. -/
inductive Illegal where
  /-- `OP` in 0x4..0xF. -/
  | reservedOpcode
  /-- `RSV` is not zero. -/
  | reservedField
  /-- `LEN` is not zero on NOP, INIT or BLOCK. -/
  | lengthField
  deriving DecidableEq, Repr

/-- A command with no LEN operand: its LEN field must be zero (R74). -/
def withoutLen (i : Instr) (c : CmdWord) : Except Illegal Instr :=
  if lenField c = 0#9 then .ok i else .error .lengthField

/-- The opcode map of R73, on a word whose RSV field is zero. -/
def decodeOp (c : CmdWord) : Except Illegal Instr :=
  match (opField c).toNat with
  | 0 => withoutLen .nop c
  | 1 => withoutLen .init c
  | 2 => withoutLen .block c
  | 3 => .ok (.last (lenField c))
  | _ => .error .reservedOpcode

/-- Decoding of a command word (R76). -/
def decode (c : CmdWord) : Except Illegal Instr :=
  if rsvField c = 0#3 then decodeOp c else .error .reservedField

/-- `legal(c)`, as R76 writes it. -/
def legal (c : CmdWord) : Bool :=
  (opField c == 0#4 || opField c == 1#4 || opField c == 2#4 || opField c == 3#4)
    && rsvField c == 0#3
    && (opField c == 3#4 || lenField c == 0#9)

/-- The word of a command (R77). -/
def encode : Instr → CmdWord
  | .nop => 0x0000#16
  | .init => 0x1000#16
  | .block => 0x2000#16
  | .last len => 0x3000#16 ||| len.setWidth 16

/-- The instruction the decoder reads from a word whose bits are `w`, numbered as the opcode table
numbers them. Every command is one 16-bit word (R79); bits above `nbits` are zero. -/
def decodeTableWord (nbits w : Nat) : Option Instr :=
  if nbits ≤ 16 then (decode (BitVec.ofNat 16 (w % 2 ^ nbits))).toOption else none

end Sys2Proof
end

