-- ==== Sys2Proof/Config.lean ====
section
/-! DEFINITION. What an instance of the core fixes: the shape of its constant tables (10_state.md R31;
their contents are in Machine/Tables.lean) and the open parameters of 00_scope.md R7.
An `opaque` constant here has no body: nothing can be proved about its value. -/

namespace Sys2Proof

/-- The five read-only tables of 10_state.md R31. Entry widths are in the types; entry counts and the
two bijections are checked by `Tables.wellFormed` (40_constants.md R105). -/
structure Tables where
  /-- `SBOX`: 256 entries of 8 bits (40_constants.md R100). -/
  sbox : List Byte
  /-- `TAU`: 64 entries of 6 bits (R101). -/
  tau : List (BitVec 6)
  /-- `A`: 64 row constants of 64 bits (R102). -/
  rows : List Word64
  /-- `C`: 12 round constants of 512 bits (R103). -/
  roundConstants : List Word512
  /-- `IV`: 512 bits (R104). -/
  iv : Word512
  deriving DecidableEq, Repr

/-- What the working registers of a command in execution hold (10_state.md R32). -/
structure Working where
  /-- The round key `K`. -/
  roundKey : Word512
  /-- The cipher state `E`. -/
  cipher : Word512
  /-- The round counter, 0 to 12. -/
  round : Fin 13
  /-- Which of LAST's three compressions is in progress. -/
  compression : Fin 3
  deriving DecidableEq, Repr, Inhabited

/-- `LAT_INIT - 1`: R7 leaves `LAT_INIT` open, an integer at least 1 (70_reset_and_hazards.md R247).
DESIGN CHOICE (log 2), safe: a claim holds for every value. -/
opaque Config.latInitExtra : Nat

/-- `LAT_BLOCK - 1` (R7). DESIGN CHOICE (log 2), safe. -/
opaque Config.latBlockExtra : Nat

/-- `LAT_LAST - 1` (R7). DESIGN CHOICE (log 2), safe. -/
opaque Config.latLastExtra : Nat

/-- `LAT_INIT`: edges from the acceptance of NOP, INIT or an erroneous command to its completion. -/
def Config.latInit : Nat := Config.latInitExtra + 1

/-- `LAT_BLOCK`: edges from the acceptance of a BLOCK to its completion. -/
def Config.latBlock : Nat := Config.latBlockExtra + 1

/-- `LAT_LAST`: edges from the acceptance of a LAST to its completion. -/
def Config.latLast : Nat := Config.latLastExtra + 1

/-- The free value of the working registers (93_implementation_defined.md U3, "any value"): some
contents for each stored state and latch. DESIGN CHOICE (log 9), safe: no rule reads them. -/
opaque Config.freeWorking
    (h n sigma : Word512) (cmd : CmdWord) (din : Word512) (wait : Nat) : Working

end Sys2Proof
end

