-- ==== Sys2Proof/Machine/Spn.lean ====
section
/-! DEFINITION. The parts of a vector (00_scope.md R9, R10) and the primitives of the
substitution-permutation network (41_spn_primitives.md R121 to R127, R131). All are total and pure
(R120), and every operand has its width by type, so no length mismatch can be formed (U1). -/

namespace Sys2Proof.Machine

/-- `byte(v, i) = v[511-8i : 504-8i]`, for `i` in 0..63; byte 0 is the most significant (R9). -/
def byteAt (v : Word512) (i : Nat) : Byte := v.extractLsb' (504 - 8 * i) 8

/-- `word(v, j) = v[511-64j : 448-64j]`, for `j` in 0..7; sub-block 0 is the most significant (R9). -/
def wordAt (v : Word512) (j : Nat) : Word64 := v.extractLsb' (448 - 64 * j) 64

/-- `b0 ‖ b1 ‖ ...` in 512 bits, the first part uppermost (R9, R10). -/
def joinParts {w : Nat} (parts : List (BitVec w)) : Word512 :=
  parts.foldl (fun v b => v <<< w ||| b.setWidth 512) 0

/-- `bytes_to_vec(b0, ..., b63)` (R9). -/
def bytesToVec (bytes : List Byte) : Word512 := joinParts bytes

/-- The concatenation of eight sub-blocks, sub-block 0 uppermost. -/
def wordsToVec (words : List Word64) : Word512 := joinParts words

/-- `mask(n) = 2^n - 1`, for `n` in 0..511 (R10). -/
def mask (n : Nat) : Word512 := (1#512 <<< n) - 1#512

/-- `BitsToInt(v)` (R127). -/
def bitsToInt {w : Nat} (v : BitVec w) : Nat := v.toNat

/-- `IntToBits(n, w)` (R127), for `n < 2^w`; no larger `n` is ever formed (R126). -/
def intToBits (n w : Nat) : BitVec w := BitVec.ofNat w n

/-- `X(a, b)` (R121). -/
def xor512 (a b : Word512) : Word512 := a ^^^ b

/-- `a +_512 b` (R126): the exact sum, reduced modulo 2^512. -/
def add512 (a b : Word512) : Word512 := intToBits ((bitsToInt a + bitsToInt b) % 2 ^ 512) 512

/-- The XOR of the rows that the low `k` bits of `w` select, the first row by bit `k - 1`. -/
def xorSelected (w : Word64) : List Word64 → Nat → Word64
  | row :: rows, k + 1 => (if w.getLsbD k then row else 0) ^^^ xorSelected w rows k
  | _, _ => 0

end Sys2Proof.Machine

namespace Sys2Proof

open Machine

/-! ### The transforms over the tables of a build (40_constants.md R105) -/

/-- `S(v)` (R122): each byte through the S-box. -/
def Tables.substitute (t : Tables) (v : Word512) : Word512 :=
  bytesToVec ((List.range 64).map fun i => t.sboxAt (byteAt v i))

/-- `P(v)` (R123): byte `i` of the result is byte `TAU[i]` of `v`. -/
def Tables.permute (t : Tables) (v : Word512) : Word512 :=
  bytesToVec ((List.range 64).map fun i => byteAt v (t.tauAt i))

/-- `l64(w)` (R124): bit `w[63-r]` selects the row constant `A[r]`. -/
def Tables.linear64 (t : Tables) (w : Word64) : Word64 := xorSelected w t.rows 64

/-- `L(v)` (R124): each sub-block on its own, in place. -/
def Tables.linear (t : Tables) (v : Word512) : Word512 :=
  wordsToVec ((List.range 8).map fun j => t.linear64 (wordAt v j))

/-- `LPS(v) = L(P(S(v)))` (R125). -/
def Tables.lps (t : Tables) (v : Word512) : Word512 := t.linear (t.permute (t.substitute v))

end Sys2Proof

namespace Sys2Proof.Machine

/-! ### The transforms over this core's tables -/

/-- `S(v)` of this core. -/
def substitute (v : Word512) : Word512 := tables.substitute v

/-- `P(v)` of this core. -/
def permute (v : Word512) : Word512 := tables.permute v

/-- `l64(w)` of this core. -/
def linear64 (w : Word64) : Word64 := tables.linear64 w

/-- `L(v)` of this core. -/
def linear (v : Word512) : Word512 := tables.linear v

/-- `LPS(v)` of this core. -/
def lps (v : Word512) : Word512 := tables.lps v

/-- `T_b[x]` of R131: the XOR of the rows `A[8b + k]` that the bits `x[7-k]` select. -/
def linearTable (b : Nat) (x : Byte) : Word64 :=
  (List.range 8).foldl (fun acc k => if x.getLsbD (7 - k) then acc ^^^ rowAt (8 * b + k) else acc) 0

/-- The table form of `l64` (R131): one lookup per byte of `w`, most significant byte first. -/
def linear64ByTables (w : Word64) : Word64 :=
  (List.range 8).foldl (fun acc b => acc ^^^ linearTable b (w.extractLsb' (56 - 8 * b) 8)) 0

end Sys2Proof.Machine
end

