-- ==== Sys2Proof/Machine/Compression.lean ====
section
/-! DEFINITION. The key schedule, the cipher and the compression function (42_compression.md R150, R155,
R160), and the interleaved schedule that the spec gives as one engine for it (R162). -/

namespace Sys2Proof

open Machine

/-- The round keys from `key` on, one for each remaining round constant after it. -/
def Tables.roundKeysFrom (t : Tables) (key : Word512) : List Word512 → List Word512
  | [] => [key]
  | c :: cs => key :: t.roundKeysFrom (t.lps (xor512 key c)) cs

/-- `KS(N, h)` (R150): the thirteen round keys `K0` to `K12`, in order. -/
def Tables.keySchedule (t : Tables) (n h : Word512) : List Word512 :=
  t.roundKeysFrom (t.lps (xor512 h n)) t.roundConstants

/-- `E(K, m)` (R155): an LPS round under each key but the last, which is only added. -/
def Tables.encrypt (t : Tables) : List Word512 → Word512 → Word512
  | [], e => e
  | [last], e => xor512 e last
  | key :: keys, e => t.encrypt keys (t.lps (xor512 key e))

/-- `g(N, h, m)` (R160). -/
def Tables.compress (t : Tables) (n h m : Word512) : Word512 :=
  xor512 (xor512 (t.encrypt (t.keySchedule n h) m) h) m

end Sys2Proof

namespace Sys2Proof.Machine

/-- `KS(N, h)` of this core. -/
def keySchedule (n h : Word512) : List Word512 := tables.keySchedule n h

/-- `E(K, m)` of this core. -/
def encrypt (keys : List Word512) (m : Word512) : Word512 := tables.encrypt keys m

/-- `g(N, h, m)` of this core. -/
def compress (n h m : Word512) : Word512 := tables.compress n h m

/-- One pass of the loop of R162 on the pair (`K`, `e`), with the round constant of the pass. -/
def engineRound (keyAndCipher : Word512 × Word512) (c : Word512) : Word512 × Word512 :=
  (lps (xor512 keyAndCipher.1 c), lps (xor512 keyAndCipher.1 keyAndCipher.2))

/-- The interleaved schedule of R162: the key schedule runs beside the rounds. -/
def compressInterleaved (n h m : Word512) : Word512 :=
  let (key, e) := tables.roundConstants.foldl engineRound (lps (xor512 h n), m)
  xor512 (xor512 (xor512 e key) h) m

end Sys2Proof.Machine
end

