-- ==== Sys2Proof/Machine/State.lean ====
section
/-! DEFINITION. The state of one core (10_state.md R20, R32), the host's drive of its input ports (R30),
the state after reset (R35), and the reasons a step can stop. -/

namespace Sys2Proof.Machine

/-- `PHASE` (R25). The encoding 0b11 is never held, so it has no constructor (U12). -/
inductive Phase where
  /-- 0b00: full blocks may be absorbed, or the tail supplied. -/
  | accumulating
  /-- 0b01: a LAST is in execution. -/
  | finalizing
  /-- 0b10: the digest is available. -/
  | done
  deriving DecidableEq, Repr

/-- `ERRCODE` (60_exceptions.md R222). The codes 0b011 to 0b111 are never produced (U11). -/
inductive ErrCode where
  /-- 0b000: no error since INIT or reset. -/
  | none
  /-- 0b001: an accepted command word is not legal (R223). -/
  | illegalCmd
  /-- 0b010: BLOCK or LAST accepted in DONE (R224). -/
  | sequence
  deriving DecidableEq, Repr

/-- The levels of the input ports at one clock edge (R30). -/
structure Ports where
  /-- `rst`, active high. -/
  rst : Bool
  /-- `cmd_valid`. -/
  cmdValid : Bool
  /-- `cmd`. -/
  cmd : CmdWord
  /-- `din`. -/
  din : Word512
  deriving DecidableEq, Repr

/-- A host that drives nothing: no reset and no command offered. -/
def Ports.idle : Ports := { rst := false, cmdValid := false, cmd := 0, din := 0 }

/-- A host that offers a command. -/
def Ports.offer (c : CmdWord) (d : Word512) : Ports :=
  { rst := false, cmdValid := true, cmd := c, din := d }

/-- A host that asserts `rst`. -/
def Ports.reset : Ports := { rst := true, cmdValid := false, cmd := 0, din := 0 }

/-- The state of one core between two clock edges. -/
structure State where
  /-- `H`, the chaining value (R21). -/
  h : Word512
  /-- `N`, the bit counter (R22). -/
  n : Word512
  /-- `SIGMA`, the checksum (R23). -/
  sigma : Word512
  /-- `PHASE` (R25). -/
  phase : Phase
  /-- `ERR` (R34). -/
  err : Bool
  /-- `ERRCODE` (R222). -/
  errcode : ErrCode
  /-- `BUSY`: a command is in execution (R20). -/
  busy : Bool
  /-- The latched `cmd` of the last accepted command (R32). After its completion R32 leaves the contents
  unspecified; keeping them is DESIGN CHOICE (log 13). -/
  cmdLatch : CmdWord
  /-- The latched `din` of the last accepted command (R32). After its completion: log 13, as `cmdLatch`. -/
  dinLatch : Word512
  /-- While BUSY: how many clock edges pass before the completing one (log 2). -/
  wait : Nat
  /-- False only before the first reset after power-on (R243, log 4). -/
  resetSeen : Bool
  /-- The host's drive at each coming clock edge, the next edge first; past its end the host drives
  nothing (log 1). -/
  inputs : List Ports
  deriving DecidableEq, Repr

/-- The state right after reset (R35, 70_reset_and_hazards.md R241) of a core built with the tables `t`.
The latches and `wait` have no effect there (R35): DESIGN CHOICE 0 (log 2, log 3). Nothing is driven:
DESIGN CHOICE (log 1). -/
def State.resetFor (t : Tables) : State where
  h := t.iv
  n := zero512
  sigma := zero512
  phase := .accumulating
  err := false
  errcode := .none
  busy := false
  cmdLatch := 0
  dinLatch := 0
  wait := 0
  resetSeen := true
  inputs := []

/-- The state right after reset of this core. -/
def State.reset : State := State.resetFor tables

/-- Power-on, before the first reset: no register has a value, and a read of one is the fault
`beforeFirstReset` (R243, U2). The numbers stored here stand for nothing (log 4). -/
def State.powerOn (inputs : List Ports) : State where
  h := 0
  n := 0
  sigma := 0
  phase := .accumulating
  err := false
  errcode := .none
  busy := false
  cmdLatch := 0
  dinLatch := 0
  wait := 0
  resetSeen := false
  inputs := inputs

/-- Why a step stops with a fault. -/
inductive Fault where
  /-- A register or output is read, or a command is offered or executed, before the first reset after
  power-on, where no register has a value (70_reset_and_hazards.md R243, U2). Raised by `clockEdge`,
  by every meaning and by the host's reads. Safe: the model stops where the spec gives no value. -/
  | beforeFirstReset
  deriving DecidableEq, Repr

/-- Why a step refuses an instruction. -/
inductive Refusal where
  /-- An instruction that has no meaning yet, by its mnemonic. Raised by no arm of `exec`. Safe. -/
  | notModelled (mnemonic : String)
  deriving DecidableEq, Repr

/-- What a meaning or a clock edge answers. -/
abbrev Result := Host.Outcome State Fault Refusal

end Sys2Proof.Machine
end

