-- ==== Sys2Proof/Machine/Flags.lean ====
section
/-! DEFINITION. The status fields and the output ports (10_state.md R27 to R30), and the host's reads of
them. The core has no condition codes and no arithmetic flags (R34). -/

namespace Sys2Proof.Machine

/-- The encoding of `PHASE` (R25). -/
def phaseBits : Phase → BitVec 2
  | .accumulating => 0b00
  | .finalizing => 0b01
  | .done => 0b10

/-- The encoding of `ERRCODE` (60_exceptions.md R222). -/
def errcodeBits : ErrCode → BitVec 3
  | .none => 0b000
  | .illegalCmd => 0b001
  | .sequence => 0b010

/-- `DVALID = (PHASE == DONE) AND (ERR == 0)` (R28). -/
def dvalid (s : State) : Bool := s.phase == .done && !s.err

/-- `status[7:0]` (R27): DVALID, ERRCODE, ERR, BUSY, PHASE from bit 7 down. -/
def status (s : State) : BitVec 8 :=
  BitVec.ofBool (dvalid s) ++ errcodeBits s.errcode ++ BitVec.ofBool s.err ++ BitVec.ofBool s.busy
    ++ phaseBits s.phase

/-- `digest[255:0]`: `H[511:256]` in DONE, `0^256` otherwise (R29). -/
def digest (s : State) : Digest :=
  if s.phase = .done then s.h.extractLsb' 256 256 else 0

/-- The ports at the coming clock edge (log 1). -/
def State.ports (s : State) : Ports := s.inputs.headD .idle

/-- `cmd_ready`: not BUSY (R27), and 0 while `rst` is 1 (70_reset_and_hazards.md R240; log 5). -/
def cmdReady (s : State) : Bool := !s.busy && !s.ports.rst

/-- The output ports (R30). -/
structure Outputs where
  /-- `cmd_ready`. -/
  cmdReady : Bool
  /-- `status`. -/
  status : BitVec 8
  /-- `digest`. -/
  digest : Digest
  deriving DecidableEq, Repr

/-- The host's read of the output ports: no effect (20_memory.md R57), and no value before the first
reset (70_reset_and_hazards.md R243). -/
def readOutputs (s : State) : Except Fault Outputs :=
  if s.resetSeen then
    .ok { cmdReady := cmdReady s, status := status s, digest := digest s }
  else .error .beforeFirstReset

/-- The contents of the working registers (10_state.md R32): a free value (U3, log 9). They are no
output, and no rule reads them. -/
def State.working (s : State) : Working :=
  Config.freeWorking s.h s.n s.sigma s.cmdLatch s.dinLatch s.wait

end Sys2Proof.Machine
end

