-- ==== Sys2Proof/Machine/Operands.lean ====
section
/-! DEFINITION. The operand forms of LAST (43_commands.md R180, R182). BLOCK's operand is all of the
latched `din` (R173); NOP and INIT have none (R171, R172). -/

namespace Sys2Proof.Machine

/-- `tail = din & mask(LEN)` (R180): the bits of `din` above the tail are ignored. -/
def tail (len : BitVec 9) (din : Word512) : Word512 := din &&& mask len.toNat

/-- `padded = IntToBits(2^LEN, 512) | tail` (R174, R182): zero bits, the single 1 bit, the tail. -/
def padded (len : BitVec 9) (din : Word512) : Word512 :=
  intToBits (2 ^ len.toNat) 512 ||| tail len din

/-- `zext_512(LEN)` (R174): what LAST adds to `N` (R184). -/
def lenBits (len : BitVec 9) : Word512 := len.setWidth 512

end Sys2Proof.Machine
end

