-- ==== Sys2Proof/Machine/Ops.lean ====
section
/-! DEFINITION. The named operations on the state: acceptance and completion of a command (43_commands.md
R170), raising an error (60_exceptions.md R221), reset (70_reset_and_hazards.md R240), and the register
writes of the commands (10_state.md R37). The core takes no traps (R220): raising an error is its only
exceptional event, and there is nothing to return from (R231). -/

namespace Sys2Proof.Machine

/-- Run `k` unless no reset has happened yet, where no register has a value (R243). -/
def State.whenReset (s : State) (k : Result) : Result :=
  if s.resetSeen then k else .fault .beforeFirstReset

/-- Completion: `BUSY <- 0` (R170). The latches of `cmd` and `din`, whose contents R32 of 10_state.md
leaves unspecified from here on, keep the accepted values: DESIGN CHOICE (log 13). -/
def State.finish (s : State) : State := { s with busy := false }

/-- `raise Error(code)` (R221): the first code since INIT or reset is kept. -/
def State.raiseError (s : State) (code : ErrCode) : State :=
  { s with errcode := if s.err then s.errcode else code, err := true }

/-- The register writes of INIT (R172). -/
def State.startMessage (s : State) (t : Tables) : State :=
  { s with h := t.iv, n := zero512, sigma := zero512, phase := .accumulating, err := false,
           errcode := .none }

/-- The register writes of BLOCK on the block `m` (R173): `g` reads the old `N`. -/
def State.absorb (s : State) (t : Tables) (m : Word512) : State :=
  { s with h := t.compress s.n s.h m, n := add512 s.n (intToBits 512 512), sigma := add512 s.sigma m }

/-- The register writes of LAST (R174): the padding step, then the two finalization compressions, which
read the `N` and `SIGMA` of the padding step (R185, R186). -/
def State.finalizeMessage (s : State) (t : Tables) (len : BitVec 9) (din : Word512) : State :=
  let block := padded len din
  let h1 := t.compress s.n s.h block
  let n1 := add512 s.n (lenBits len)
  let s1 := add512 s.sigma block
  let h2 := t.compress zero512 h1 n1
  let h3 := t.compress zero512 h2 s1
  { s with h := h3, n := n1, sigma := s1, phase := .done }

/-- The edges before the completing one, for a word accepted in a phase (R170, R246): an erroneous
command takes `LAT_INIT`. -/
def acceptedWait (c : CmdWord) (phase : Phase) : Nat :=
  match decode c with
  | .error _ => Config.latInit - 1
  | .ok .nop => Config.latInit - 1
  | .ok .init => Config.latInit - 1
  | .ok .block => if phase = .done then Config.latInit - 1 else Config.latBlock - 1
  | .ok (.last _) => if phase = .done then Config.latInit - 1 else Config.latLast - 1

/-- `PHASE` from the acceptance of a word on: a LAST accepted in ACCUMULATING enters FINALIZING
(R174, R176); nothing else changes `PHASE` before completion (R249). -/
def acceptedPhase (c : CmdWord) (phase : Phase) : Phase :=
  match decode c, phase with
  | .ok (.last _), .accumulating => .finalizing
  | _, phase => phase

/-- Acceptance of a command (R170, R245): `cmd` and `din` are latched and BUSY is set. -/
def State.accept (s : State) (c : CmdWord) (d : Word512) : State :=
  { s with busy := true, cmdLatch := c, dinLatch := d, wait := acceptedWait c s.phase,
           phase := acceptedPhase c s.phase }

/-- Reset (R240): every register takes its reset value; the host's later drive stands. -/
def State.applyReset (s : State) (t : Tables) : State :=
  { State.resetFor t with inputs := s.inputs }

/-- The clock edge consumes the host's drive of that edge (log 1). -/
def State.popInput (s : State) : State := { s with inputs := s.inputs.tail }

/-- One of the edges that a command in execution waits for (R246). -/
def State.tick (s : State) : State := { s with wait := s.wait - 1 }

end Sys2Proof.Machine
end

