-- ==== Sys2Proof/Machine/Commands.lean ====
section
/-! DEFINITION. The meanings of the four commands at their completion (43_commands.md R170 to R174): over
the tables of any build, and over this core's. -/

namespace Sys2Proof.Machine

/-- BLOCK and LAST in DONE raise SEQUENCE and do nothing else (R170, R175, 60_exceptions.md R224). -/
def State.unlessDone (s : State) (t : State) : State :=
  if s.phase = .done then s.raiseError .sequence else t

/-- NOP (R171): no register changes. -/
def execNop (s : State) : Result := s.whenReset (.next s.finish)

/-- INIT (R172): start a new message. -/
def execInitOf (t : Tables) (s : State) : Result := s.whenReset (.next (s.startMessage t).finish)

/-- BLOCK (R173): absorb the latched `din`. -/
def execBlockOf (t : Tables) (s : State) : Result :=
  s.whenReset (.next (s.unlessDone (s.absorb t s.dinLatch)).finish)

/-- LAST (R174): pad the tail in the latched `din`, then finalize. -/
def execLastOf (t : Tables) (len : BitVec 9) (s : State) : Result :=
  s.whenReset (.next (s.unlessDone (s.finalizeMessage t len s.dinLatch)).finish)

/-- INIT over this core's tables. -/
def execInit (s : State) : Result := execInitOf tables s

/-- BLOCK over this core's tables. -/
def execBlock (s : State) : Result := execBlockOf tables s

/-- LAST over this core's tables. -/
def execLast (len : BitVec 9) (s : State) : Result := execLastOf tables len s

end Sys2Proof.Machine
end

