-- ==== Sys2Proof/Machine/Clock.lean ====
section
/-! DEFINITION. One rising edge of `clk` (70_reset_and_hazards.md R240 to R247), and the same commands
taken whole, without their latency (20_memory.md R61). -/

namespace Sys2Proof.Machine

/-- The completion of an accepted illegal word: ILLEGAL_CMD (43_commands.md R170, 60_exceptions.md
R223). -/
def State.rejectWord (s : State) : Result := s.whenReset (.next (s.raiseError .illegalCmd).finish)

/-- The completion of the latched command (43_commands.md R170) on a core whose commands run as `run`. -/
def State.executeLatchedBy (run : Instr → State → Result) (s : State) : Result :=
  match decode s.cmdLatch with
  | .ok i => run i s
  | .error _ => s.rejectWord

/-- The completion of the latched command on this core. -/
def State.executeLatched (s : State) : Result := s.executeLatchedBy exec

/-- One clock edge of a core with the tables `tab` whose commands run as `run`: reset first (R240), then
completion of a command in execution (R246), then acceptance (R245). Before the first reset only reset
and idling have a meaning (R243, R244). -/
def clockEdgeOf (tab : Tables) (run : Instr → State → Result) (s : State) : Result :=
  let p := s.ports
  let t := s.popInput
  if p.rst then .next (t.applyReset tab)
  else if !s.resetSeen then
    if p.cmdValid then .fault .beforeFirstReset else .next t
  else if s.busy then
    if s.wait = 0 then t.executeLatchedBy run else .next t.tick
  else if p.cmdValid then .next (t.accept p.cmd p.din)
  else .next t

/-- One clock edge of this core. -/
def clockEdge (s : State) : Result := clockEdgeOf tables exec s

/-- A command from its acceptance at rest to its completion, its latency left out: what `step` is in
the rule for a model of R61. -/
def State.command (c : CmdWord) (d : Word512) (s : State) : Result :=
  { s.accept c d with wait := 0 }.executeLatched

/-- The host's commands one after another, each issued when the one before has completed (R61). -/
def runCommands : List (CmdWord × Word512) → State → Result
  | [], s => .next s
  | (c, d) :: rest, s =>
    match s.command c d with
    | .next t => runCommands rest t
    | .fault r => .fault r
    | .refused r => .refused r

/-- `s` about to complete the word `c`, accepted with `din` 0, at the coming edge. No reset stands at
that edge (log 7). -/
def State.withLatchedWord (s : State) (c : CmdWord) : State :=
  { s.accept c 0 with
    wait := 0
    inputs := match s.inputs with
      | [] => []
      | p :: ps => { p with rst := false } :: ps }

end Sys2Proof.Machine
end

