-- ==== Sys2Proof/Machine/Step.lean ====
section
/-! DEFINITION. The machine's step: one rising edge of `clk` (log 1), and where the host's word for the
next instruction stands. -/

namespace Sys2Proof.Machine

/-- One clock edge (70_reset_and_hazards.md R245, R246). -/
def step (s : State) : Host.Outcome State Fault Refusal := clockEdge s

/-- `s` with the word of an instruction accepted, so that the coming edge completes it (log 7). -/
def State.withFetchWord (s : State) (nbits w : Nat) : State :=
  s.withLatchedWord (BitVec.ofNat 16 (w % 2 ^ nbits))

end Sys2Proof.Machine
end

