-- ==== Sys2Proof/Machine/HostBoundary.lean ====
section
/-! DEFINITION. The host functions around the core (44_host_boundary.md R200 to R209): the normalizers, the
digest encoding, the block split and the contract `hash`; and the host's drive of the ports for a
sequence of commands. -/

namespace Sys2Proof.Machine

/-- The mode of `hash` (R204). -/
inductive Mode where
  | rawUtf8
  | hex
  deriving DecidableEq, Repr

/-- The failures of `hash`. -/
inductive HostError where
  /-- `InvalidHexInput` (R208): raised before any command reaches the core. -/
  | invalidHexInput
  /-- The core's result is not a valid digest, and the host fails closed (R209). -/
  | noDigest
  deriving DecidableEq, Repr

/-- A bit string, as the pair `(V, n)` of R200: its integer, first bit most significant, and its length. -/
structure Message where
  /-- `V`. -/
  value : Nat
  /-- `n`. -/
  length : Nat
  deriving DecidableEq, Repr

/-- The integer of digits in a base, first digit most significant. -/
def ofDigits (base : Nat) (digits : List Nat) : Nat := digits.foldl (fun v d => base * v + d) 0

/-- `UTF8(s)` (R201), as byte values. A `Char` is a Unicode scalar value, so every string has an
encoding (U14). PRESUMED (log 8): the encoding is Lean's `String.utf8EncodeChar`. -/
def utf8Bytes (s : List Char) : List Nat :=
  s.flatMap fun ch => (String.utf8EncodeChar ch).map UInt8.toNat

/-- `normalize_raw(s)` (R201). -/
def normalizeRaw (s : List Char) : Message :=
  { value := ofDigits 256 (utf8Bytes s), length := 8 * (utf8Bytes s).length }

/-- The value of a hex digit, in either case (R202). -/
def hexDigit? (ch : Char) : Option Nat :=
  if '0' ≤ ch ∧ ch ≤ '9' then some (ch.toNat - '0'.toNat)
  else if 'a' ≤ ch ∧ ch ≤ 'f' then some (ch.toNat - 'a'.toNat + 10)
  else if 'A' ≤ ch ∧ ch ≤ 'F' then some (ch.toNat - 'A'.toNat + 10)
  else none

/-- The values of the hex digits of `s`, if it holds nothing else. -/
def hexDigits? : List Char → Option (List Nat)
  | [] => some []
  | ch :: rest =>
    match hexDigit? ch, hexDigits? rest with
    | some d, some ds => some (d :: ds)
    | _, _ => none

/-- `normalize_hex(s)` (R202): leading zeros and odd digit counts are kept (C6), and the empty string is
the empty message (D16). -/
def normalizeHex (s : List Char) : Except HostError Message :=
  match hexDigits? s with
  | some ds => .ok { value := ofDigits 16 ds, length := 4 * ds.length }
  | none => .error .invalidHexInput

/-- The normalizer (R200, R204). -/
def normalize (mode : Mode) (s : List Char) : Except HostError Message :=
  match mode with
  | .rawUtf8 => .ok (normalizeRaw s)
  | .hex => normalizeHex s

/-- A digit of `0123456789abcdef` (R203). -/
def hexChar (d : BitVec 4) : Char :=
  if d.toNat < 10 then Char.ofNat ('0'.toNat + d.toNat) else Char.ofNat ('a'.toNat + (d.toNat - 10))

/-- `hex_out(d)` (R203): character `k` is the digit of `d[255-4k : 252-4k]`. -/
def hexOut (d : Digest) : List Char :=
  (List.range 64).map fun k => hexChar (d.extractLsb' (252 - 4 * k) 4)

/-- `B_j` of R205, for `j` from 1: the `j`-th 512 bits from the end of the message. -/
def messageBlock (m : Message) (j : Nat) : Word512 :=
  intToBits ((m.value >>> (512 * (j - 1))) % 2 ^ 512) 512

/-- `q = floor(n / 512)` (R205). -/
def blockCount (m : Message) : Nat := m.length / 512

/-- `r = n mod 512` (R205). -/
def tailLength (m : Message) : BitVec 9 := intToBits (m.length % 512) 9

/-- `T = V >> 512q` (R205): the first `r` bits of the message. -/
def tailValue (m : Message) : Word512 := intToBits (m.value >>> (512 * blockCount m)) 512

/-- The commands of R205, without INIT: the trailing block first, then the remainder. -/
def messageCommands (m : Message) : List (CmdWord × Word512) :=
  (List.range (blockCount m)).map (fun j => (encode .block, messageBlock m (j + 1)))
    ++ [(encode (.last (tailLength m)), tailValue m)]

/-- The sequence of R205 with its INIT. -/
def hashCommands (m : Message) : List (CmdWord × Word512) :=
  (encode .init, 0) :: messageCommands m

/-- The host's reading of the result (R204, R209): no digest unless the core is ready, DVALID is 1 and
ERR is 0. -/
def readDigest (s : State) : Except HostError Digest :=
  if s.resetSeen && cmdReady s && dvalid s && !s.err then .ok (digest s) else .error .noDigest

/-- `hash(input, mode)` (R204), on the core in state `s`. The host that runs it drives the commands of
R205 and nothing else: what stood on the ports' coming edges before is not driven (log 14). -/
def coreHash (mode : Mode) (input : List Char) (s : State) : Except HostError (List Char) :=
  match normalize mode input with
  | .error e => .error e
  | .ok m =>
    match runCommands (hashCommands m) { s with inputs := [] } with
    | .next t => (readDigest t).map hexOut
    | _ => .error .noDigest

/-- The latency of a command word that raises no SEQUENCE error (70_reset_and_hazards.md R246). -/
def wordLatency (c : CmdWord) : Nat := acceptedWait c .accumulating + 1

/-- The host's drive of the ports for one command: the edge that offers it, then the edges it executes. -/
def commandDrive (c : CmdWord) (d : Word512) : List Ports :=
  Ports.offer c d :: List.replicate (wordLatency c) .idle

/-- The host's drive for a sequence of commands that raises no SEQUENCE error: each is offered when the
one before has completed (R205 "waiting for `cmd_ready` = 1 before each command"). -/
def driveOf : List (CmdWord × Word512) → List Ports
  | [] => []
  | (c, d) :: rest => commandDrive c d ++ driveOf rest

end Sys2Proof.Machine
end

