-- ==== Sys2Proof/Machine/Assembler.lean ====
section
/-! DEFINITION. The textual syntax of command sequences and the pseudo-commands (30_encoding.md R80 to
R82; `.word` is used in 95_test_vectors.md 5.8). -/

namespace Sys2Proof.Machine

/-- One line of a command sequence. -/
inductive AsmLine where
  /-- `NOP`. -/
  | nop
  /-- `INIT`. -/
  | init
  /-- `BLOCK 0x<128 hex digits>`. -/
  | block (value : Word512)
  /-- `LAST <len>, 0x<hex digits>`, or `LAST <len>` with value 0. -/
  | last (len value : Nat)
  /-- `.word <word>`: a raw command word, with `din` 0. -/
  | word (cmd : CmdWord)
  /-- `HASHBITS n, 0x<value>` (R81). -/
  | hashBits (length value : Nat)
  /-- `HASHHEX "<s>"` (R81). -/
  | hashHex (s : List Char)
  /-- `HASHRAW "<s>"` (R81). -/
  | hashRaw (s : List Char)
  /-- `WAITREADY`: no command (R81). -/
  | waitReady
  deriving DecidableEq, Repr

/-- Why a line is not assembled. -/
inductive AsmError where
  /-- The text has none of the forms of R80 and R81. -/
  | badLine
  /-- LEN of LAST is not in 0..511 (R80). -/
  | lengthRange
  /-- "For LAST, the value must be below `2^len`" (R80); and so for HASHBITS. -/
  | valueRange
  /-- The hex check of HASHHEX (R81). -/
  | invalidHexInput
  deriving DecidableEq, Repr

/-- The commands a line stands for (R80, R81). R80 gives NOP and INIT no value for `din`, which the core
ignores: offering 0, also with the INIT of a pseudo-command, is DESIGN CHOICE (log 12). So is emitting
that INIT always, which R81 lets the host leave out directly after reset. -/
def assemble : AsmLine → Except AsmError (List (CmdWord × Word512))
  | .nop => .ok [(encode .nop, 0)]
  | .init => .ok [(encode .init, 0)]
  | .block v => .ok [(encode .block, v)]
  | .last len v =>
    if 511 < len then .error .lengthRange
    else if 2 ^ len ≤ v then .error .valueRange
    else .ok [(encode (.last (intToBits len 9)), intToBits v 512)]
  | .word c => .ok [(c, 0)]
  | .hashBits n v =>
    if 2 ^ n ≤ v then .error .valueRange else .ok (hashCommands { value := v, length := n })
  | .hashHex s =>
    match normalizeHex s with
    | .ok m => .ok (hashCommands m)
    | .error _ => .error .invalidHexInput
  | .hashRaw s => .ok (hashCommands (normalizeRaw s))
  | .waitReady => .ok []

/-- The commands of a whole sequence. -/
def assembleAll : List AsmLine → Except AsmError (List (CmdWord × Word512))
  | [] => .ok []
  | l :: ls =>
    match assemble l, assembleAll ls with
    | .ok cs, .ok rest => .ok (cs ++ rest)
    | .error e, _ => .error e
    | _, .error e => .error e

/-- The space characters between the words of a line (log 12). -/
def isBlank (ch : Char) : Bool := ch == ' ' || ch == '\t'

/-- The words of a line up to its comment, which starts with `;` (R80). `word` holds the characters read
of the current word, last first. -/
def lineWords : List Char → List Char → List (List Char)
  | word, [] => if word.isEmpty then [] else [word.reverse]
  | word, ch :: rest =>
    if ch == ';' then (if word.isEmpty then [] else [word.reverse])
    else if isBlank ch then
      (if word.isEmpty then lineWords [] rest else word.reverse :: lineWords [] rest)
    else lineWords (ch :: word) rest

/-- A decimal number. -/
def decimal? (s : List Char) : Option Nat :=
  if s.isEmpty || !s.all (fun ch => decide ('0' ≤ ch ∧ ch ≤ '9')) then none
  else some (ofDigits 10 (s.map fun ch => ch.toNat - '0'.toNat))

/-- `0x<hex digits>`, with the number of its digits. -/
def hexLiteral? : List Char → Option (Nat × Nat)
  | '0' :: 'x' :: s =>
    if s.isEmpty then none else (hexDigits? s).map fun ds => (ofDigits 16 ds, ds.length)
  | _ => none

/-- A word that ends in a comma, without it. -/
def dropComma? (s : List Char) : Option (List Char) :=
  match s.reverse with
  | ',' :: rest => some rest.reverse
  | _ => none

/-- The operand `"<s>"` of a line whose mnemonic is `op`: a quoted text, with nothing but blanks or a
comment after it. A `;` between the quotes is text. -/
def quotedOperand? (op line : List Char) : Option (List Char) :=
  match (((line.dropWhile isBlank).drop op.length).dropWhile isBlank) with
  | '"' :: rest =>
    match rest.dropWhile (· != '"') with
    | '"' :: after => if lineWords [] after = [] then some (rest.takeWhile (· != '"')) else none
    | _ => none
  | _ => none

/-- `n, 0x<value>`: a decimal length and a hex value. -/
def lengthAndValue? (a b : List Char) : Option (Nat × Nat) :=
  match (dropComma? a).bind decimal?, hexLiteral? b with
  | some n, some (v, _) => some (n, v)
  | _, _ => none

/-- One line of text (R80, R81): `none` for a line that holds only blanks or a comment. -/
def parseLine (line : List Char) : Except AsmError (Option AsmLine) :=
  match lineWords [] line with
  | [] => .ok none
  | op :: args =>
    if op = "NOP".toList ∧ args = [] then .ok (some .nop)
    else if op = "INIT".toList ∧ args = [] then .ok (some .init)
    else if op = "WAITREADY".toList ∧ args = [] then .ok (some .waitReady)
    else if op = "HASHHEX".toList then
      match quotedOperand? op line with
      | some s => .ok (some (.hashHex s))
      | none => .error .badLine
    else if op = "HASHRAW".toList then
      match quotedOperand? op line with
      | some s => .ok (some (.hashRaw s))
      | none => .error .badLine
    else
      match args with
      | [a] =>
        if op = "BLOCK".toList then
          match hexLiteral? a with
          | some (v, 128) => .ok (some (.block (intToBits v 512)))
          | _ => .error .badLine
        else if op = "LAST".toList then
          match decimal? a with
          | some len => .ok (some (.last len 0))
          | none => .error .badLine
        else if op = ".word".toList then
          match hexLiteral? a with
          | some (v, _) => if v < 2 ^ 16 then .ok (some (.word (intToBits v 16))) else .error .valueRange
          | none => .error .badLine
        else .error .badLine
      | [a, b] =>
        if op = "LAST".toList then
          match lengthAndValue? a b with
          | some (len, v) => .ok (some (.last len v))
          | none => .error .badLine
        else if op = "HASHBITS".toList then
          match lengthAndValue? a b with
          | some (n, v) => .ok (some (.hashBits n v))
          | none => .error .badLine
        else .error .badLine
      | _ => .error .badLine

/-- The commands of a text, one line a command (R80). -/
def assembleText : List (List Char) → Except AsmError (List (CmdWord × Word512))
  | [] => .ok []
  | line :: rest =>
    match parseLine line with
    | .error e => .error e
    | .ok none => assembleText rest
    | .ok (some l) =>
      match assemble l, assembleText rest with
      | .ok cs, .ok more => .ok (cs ++ more)
      | .error e, _ => .error e
      | _, .error e => .error e

end Sys2Proof.Machine
end

