-- ==== Sys2Proof/WellFormed.lean ====
section
/-! DEFINITION. The build-time checks of the constant tables (40_constants.md R105): a core whose tables
fail one is not built (60_exceptions.md R226; Machine/Build.lean).
Every term of `Instr` is well formed: LEN is nine bits wide by type, and every value of it is a legal
tail length (30_encoding.md R74). -/

namespace Sys2Proof

/-- "`SBOX` has 256 entries of 8 bits, and is a bijection" (R105): every byte occurs among 256 entries. -/
def Tables.sboxOk (t : Tables) : Bool :=
  t.sbox.length == 256 && (List.range 256).all fun x => t.sbox.contains (BitVec.ofNat 8 x)

/-- "`TAU` has 64 entries, and is a permutation of 0..63" (R105). -/
def Tables.tauOk (t : Tables) : Bool :=
  t.tau.length == 64 && (List.range 64).all fun x => t.tau.contains (BitVec.ofNat 6 x)

/-- "`A` has 64 entries of 64 bits" (R105). -/
def Tables.rowsOk (t : Tables) : Bool := t.rows.length == 64

/-- "`C` has 12 entries of 512 bits" (R105). -/
def Tables.roundConstantsOk (t : Tables) : Bool := t.roundConstants.length == 12

/-- All checks of R105 (`IV` is 512 bits wide by type). -/
def Tables.wellFormed (t : Tables) : Bool :=
  t.sboxOk && t.tauOk && t.rowsOk && t.roundConstantsOk

end Sys2Proof
end

