-- ==== Sys2Proof/Machine/Build.lean ====
section
/-! DEFINITION. The core as a function of its tables: "A model takes the tables as configuration, with these
checks as its well-formedness condition" (40_constants.md R105). Sys2Proof.core is the core built with the
tables of R100 to R104. -/

namespace Sys2Proof.Machine

/-- The tables of a core that may be built: they pass the checks of R105. -/
structure Build where
  tables : Tables
  checked : tables.wellFormed = true

/-- The meanings of the commands over a build's tables (43_commands.md R171 to R174). -/
def execFor (t : Tables) : Instr → State → Result
  | .nop, s => execNop s
  | .init, s => execInitOf t s
  | .block, s => execBlockOf t s
  | .last len, s => execLastOf t len s

/-- The core of a build. -/
def coreFor (b : Build) : Host.Core :=
  { State := State
    Fault := Fault
    Refusal := Refusal
    step := clockEdgeOf b.tables (execFor b.tables)
    reset := State.resetFor b.tables }

/-- Building a core: "A build whose tables fail a check is refused: no core exists" (R105;
60_exceptions.md R226). -/
def buildCore (t : Tables) : Option Host.Core :=
  if h : t.wellFormed = true then some (coreFor { tables := t, checked := h }) else none

end Sys2Proof.Machine
end

