-- ==== Sys2Proof/Machine/Observation.lean ====
section
/-! DEFINITION. The end of a run of one message, what is observed there, and its result
(70_reset_and_hazards.md R250). A run is looked at over a number of clock edges, since the host need not
ever issue LAST: the spec's observation is that of every number of edges that is large enough. -/

namespace Sys2Proof.Machine

/-- The word of a LAST. -/
def isLastWord (c : CmdWord) : Bool :=
  match decode c with
  | .ok (.last _) => true
  | _ => false

/-- The coming edge accepts a LAST (R245). -/
def acceptsLast (s : State) : Bool :=
  s.resetSeen && cmdReady s && s.ports.cmdValid && isLastWord s.ports.cmd

/-- `(status, digest)` at the first point, from `s` on and within `k` edges, where `cmd_ready` = 1. -/
def firstReady (k : Nat) (s : State) : Option (BitVec 8 × Digest) :=
  if cmdReady s then some (status s, digest s)
  else
    match k with
    | 0 => none
    | k + 1 =>
      match step s with
      | .next t => firstReady k t
      | _ => none

/-- The observation of a run from `s` within `k` edges: `(status, digest)` at the first point after the
acceptance of its LAST where `cmd_ready` = 1, and none for a run that does not reach such a point. A
reset that abandons the LAST makes that point the state after reset. -/
def observation : Nat → State → Option (BitVec 8 × Digest)
  | 0, _ => none
  | k + 1, s =>
    match step s with
    | .next t => if acceptsLast s then firstReady k t else observation k t
    | _ => none

/-- The result of a run: "`digest` if DVALID = 1, and a failure otherwise" (R250). DVALID is bit 7 of the
status (10_state.md R27). -/
def runResult (observed : BitVec 8 × Digest) : Except HostError Digest :=
  if observed.1.getLsbD 7 then .ok observed.2 else .error .noDigest

end Sys2Proof.Machine
end

