-- ==== Sys2Proof/Machine/Platform.lean ====
section
/-! DEFINITION. A platform with several cores (20_memory.md R66, 60_exceptions.md R236): each has its own
state, and they share nothing that can change. -/

namespace Sys2Proof.Machine

/-- A clock edge of core `k` of a platform, whose number of cores is the list's length (`NUM_CORES`).
No order between the edges of different cores is fixed, so any interleaving is allowed (log 10). -/
def stepCore (k : Nat) (cores : List State) : Host.Outcome (List State) Fault Refusal :=
  match cores[k]? with
  | none => .next cores
  | some s =>
    match clockEdge s with
    | .next t => .next (cores.set k t)
    | .fault r => .fault r
    | .refused r => .refused r

/-- Clock edges of the listed cores, in that order. A core that faults (a command offered before its first
reset) ends the run of the whole platform, where the spec gives that fault per core and says nothing of
the others' run: DESIGN CHOICE (log 10). -/
def stepCores : List Nat → List State → Host.Outcome (List State) Fault Refusal
  | [], cores => .next cores
  | k :: ks, cores =>
    match stepCore k cores with
    | .next cores' => stepCores ks cores'
    | .fault r => .fault r
    | .refused r => .refused r

end Sys2Proof.Machine
end

