-- ==== Sys2Proof/Machine/Reference.lean ====
section
/-! DEFINITION. The source's own algorithm on a whole bit string (43_commands.md, the quotations of R173
and R174; 44_host_boundary.md R207): the loop over trailing 512-bit blocks, the padding block as a
list of bits, and the finalization. It knows no commands, phases or status, and the core is measured
against it. -/

namespace Sys2Proof.Machine

/-- `h`, `N` and `Σ` of the source's loop. -/
structure Running where
  h : Word512
  n : Word512
  sigma : Word512
  deriving DecidableEq, Repr

/-- "h initialized to the IV, N and Σ initialized to zero". -/
def Running.start : Running := { h := tables.iv, n := 0, sigma := 0 }

/-- The integer of a bit string, first bit most significant (44_host_boundary.md R200). -/
def bitsValue (bits : List Bool) : Nat := bits.foldl (fun v b => 2 * v + b.toNat) 0

/-- A block, from its 512 bits, first bit most significant (20_memory.md R53). -/
def blockOfBits (bits : List Bool) : Word512 := BitVec.ofNat 512 (bitsValue bits)

/-- One block of the loop: "update h = g(N, h, block), advance N by 512 (mod 2^512), accumulate
Σ = (Σ + block) mod 2^512". -/
def Running.absorb (r : Running) (block : Word512) : Running :=
  { h := compress r.n r.h block, n := r.n + 512, sigma := r.sigma + block }

/-- "While ≥512 bits of unconsumed input remain, consume the trailing 512 bits as the next block". The
answer is the remainder and the running values. `fuel` bounds the loop; the input's length is
enough. -/
def referenceLoop : Nat → List Bool → Running → List Bool × Running
  | 0, bits, r => (bits, r)
  | fuel + 1, bits, r =>
    if bits.length < 512 then (bits, r)
    else
      let cut := bits.length - 512
      referenceLoop fuel (bits.take cut) (r.absorb (blockOfBits (bits.drop cut)))

/-- "`[zero bits]* ‖ 1 ‖ [remaining input bits]`, left-padded with zeros so the total length is exactly
512 bits". -/
def paddedBits (remainder : List Bool) : List Bool :=
  List.replicate (511 - remainder.length) false ++ true :: remainder

/-- The padding step, then "`h = g(zero_512, h, N)` then `h = g(zero_512, h, Σ)`". -/
def referenceFinal (remainder : List Bool) (r : Running) : Word512 :=
  let block := blockOfBits (paddedBits remainder)
  let h1 := compress r.n r.h block
  let n1 := r.n + BitVec.ofNat 512 remainder.length
  let s1 := r.sigma + block
  compress 0 (compress 0 h1 n1) s1

/-- The digest of a bit string: "the top 256 bits of the resulting h". -/
def referenceHash (bits : List Bool) : Digest :=
  let (remainder, r) := referenceLoop bits.length bits .start
  (referenceFinal remainder r).extractLsb' 256 256

/-- The bit string that a pair `(V, n)` of R200 stands for. -/
def bitsOf (value length : Nat) : List Bool :=
  (List.range length).map fun k => value.testBit (length - 1 - k)

end Sys2Proof.Machine
end

