-- ==== Sys2Proof/Safety.lean ====
section
/-! DEFINITION. The terms in which claims about the core are stated: the invariant of its states, rest,
and the part of a state that is architected. -/

namespace Sys2Proof.Machine

/-- The invariant of every state after the first reset.
`PHASE = FINALIZING` only while a LAST is in execution (10_state.md R26), a LAST in execution leaves
ACCUMULATING (R176), and ERRCODE is 0b000 exactly while ERR is 0 (R34). -/
structure CoreInv (s : State) : Prop where
  /-- A reset has happened (70_reset_and_hazards.md R243). -/
  reset : s.resetSeen = true
  /-- R26. -/
  finalizing : s.phase = .finalizing → s.busy = true ∧ isLastWord s.cmdLatch = true
  /-- R176: from its acceptance on, a LAST is not in ACCUMULATING. -/
  lastRuns : s.busy = true → isLastWord s.cmdLatch = true → s.phase ≠ .accumulating
  /-- R34: "ERRCODE is written only when ERR goes from 0 to 1. It is cleared to 0b000 with ERR." -/
  code : s.errcode = .none ↔ s.err = false

/-- At rest after a reset: no command in execution (43_commands.md R171 "at rest"). -/
structure AtRest (s : State) : Prop where
  reset : s.resetSeen = true
  idle : s.busy = false
  phase : s.phase ≠ .finalizing

/-- The architected state but BUSY (10_state.md R20), which is what a command reads and writes. -/
structure Architected where
  h : Word512
  n : Word512
  sigma : Word512
  phase : Phase
  err : Bool
  errcode : ErrCode
  deriving DecidableEq, Repr

/-- The architected part of a state. -/
def State.architected (s : State) : Architected :=
  { h := s.h, n := s.n, sigma := s.sigma, phase := s.phase, err := s.err, errcode := s.errcode }

/-- What an error records in the architected state, and nothing else (60_exceptions.md R221). -/
def Architected.withError (a : Architected) (code : ErrCode) : Architected :=
  { a with err := true, errcode := if a.err then a.errcode else code }

/-- `PHASE` after the completion of a word accepted in a phase (43_commands.md R176). -/
def phaseAfter (c : CmdWord) (p : Phase) : Phase :=
  match decode c with
  | .ok .init => .accumulating
  | .ok (.last _) => .done
  | _ => p

/-- No reset stands in a stretch of the host's drive. -/
def NoReset (drive : List Ports) : Prop := ∀ p ∈ drive, p.rst = false

/-- A host that offers the commands in order to a core at rest in phase `p` (20_memory.md R61): any
number of edges that offer nothing, then the command, then the edges of its execution
(70_reset_and_hazards.md R246), at which it may drive anything but a reset. -/
def OffersInOrder : List (CmdWord × Word512) → Phase → List Ports → Prop
  | [], _, drive => drive = []
  | (c, d) :: cmds, p, drive =>
    ∃ quiet busy later : List Ports,
      drive = quiet ++ Ports.offer c d :: (busy ++ later)
        ∧ (∀ q ∈ quiet, q.rst = false ∧ q.cmdValid = false)
        ∧ NoReset busy ∧ busy.length = acceptedWait c p + 1
        ∧ OffersInOrder cmds (phaseAfter c p) later

end Sys2Proof.Machine
end

