-- ==== Sys2Proof/Certificates/Slice0/Obligations.lean ====
section
/-! DEFINITION. The statements about the core that the provers settle, from the numbered rules of spec/.
Each docstring names the rule or section a statement formalises. A state of which a statement says
nothing but `AtRest` or `resetSeen` need not be reachable. -/

open Sys2Proof Sys2Proof.Machine

/-! ### Constant tables and primitives -/

/-- 40_constants.md R105: what the checks say of any tables, that tables which fail them build no core and
tables which pass them build the core over them, and that this core is the one over the tables of R100
to R104. -/
def Obligations.TablesPassTheBuildChecks : Prop :=
  (∀ t : Tables,
      t.wellFormed = true ↔
        (t.sbox.length = 256 ∧ Function.Bijective t.sboxAt)
          ∧ (t.tau.length = 64 ∧ ∀ x < 64, ∃! i, i < 64 ∧ t.tauAt i = x)
          ∧ t.rows.length = 64 ∧ t.roundConstants.length = 12)
    ∧ (∀ t : Tables, t.wellFormed = false → buildCore t = none)
    ∧ (∀ b : Build, buildCore b.tables = some (coreFor b))
    ∧ tables.wellFormed = true ∧ buildCore tables = some core

/-- 40_constants.md R101: the formula of `TAU`, its two facts, its fixed points, and that `P` is the same
when byte positions are counted from the least significant end. -/
def Obligations.TauIsTheTransposition : Prop :=
  (∀ i < 64,
      tauAt i = 8 * (i % 8) + i / 8 ∧ tauAt i < 64 ∧ tauAt (tauAt i) = i
        ∧ tauAt (63 - i) = 63 - tauAt i
        ∧ (tauAt i = i ↔ i ∈ [0, 9, 18, 27, 36, 45, 54, 63]))
    ∧ ∀ v, ∀ i < 64, byteAt (permute v) (63 - i) = byteAt v (63 - tauAt i)

/-- 41_spn_primitives.md R121. -/
def Obligations.XorIsBitwise : Prop :=
  (∀ (a b : Word512) (k : Nat), (xor512 a b).getLsbD k = (a.getLsbD k != b.getLsbD k))
    ∧ (∀ a, xor512 a a = zero512) ∧ (∀ a, xor512 a zero512 = a)
    ∧ (∀ a b, xor512 a b = xor512 b a)
    ∧ (∀ a b c, xor512 (xor512 a b) c = xor512 a (xor512 b c))
    ∧ xor512 iv iv = zero512

/-- 41_spn_primitives.md R122. -/
def Obligations.SubstituteIsABytewiseBijection : Prop :=
  (∀ v, ∀ i < 64, byteAt (substitute v) i = sboxAt (byteAt v i))
    ∧ Function.Bijective substitute
    ∧ substitute zero512 = bytesToVec (List.replicate 64 0xfc)
    ∧ substitute (BitVec.allOnes 512) = bytesToVec (List.replicate 64 0xb6)
    ∧ substitute iv = bytesToVec (List.replicate 64 0xee)
    ∧ substitute (bytesToVec ((List.range 64).map (BitVec.ofNat 8)))
        = bytesToVec ((List.range 64).map fun i => sboxAt (BitVec.ofNat 8 i))
    ∧ sboxAt 0x00 = 0xfc ∧ sboxAt 0x01 = 0xee ∧ sboxAt 0x02 = 0xdd ∧ sboxAt 0x3f = 0x1f

/-- 41_spn_primitives.md R123. -/
def Obligations.PermuteMovesWholeBytes : Prop :=
  (∀ v, ∀ i < 64, byteAt (permute v) i = byteAt v (tauAt i))
    ∧ (∀ v, permute (permute v) = v)
    ∧ (∀ v, ∀ i ∈ [0, 9, 18, 27, 36, 45, 54, 63], byteAt (permute v) i = byteAt v i)
    ∧ (∀ b, permute (bytesToVec (List.replicate 64 b)) = bytesToVec (List.replicate 64 b))
    ∧ permute (bytesToVec ((List.range 64).map (BitVec.ofNat 8)))
        = 0x00081018202830380109111921293139020a121a222a323a030b131b232b333b040c141c242c343c050d151d252d353d060e161e262e363e070f171f272f373f

/-- 41_spn_primitives.md R124: `l64` is the row vector `w` times the matrix of 40_constants.md R102, and
`L` applies it to each sub-block. -/
def Obligations.LinearIsTheRowVectorProduct : Prop :=
  (∀ w, ∀ c < 64,
      (linear64 w).getLsbD (63 - c)
        = (List.range 64).foldl
            (fun acc r => acc != (w.getLsbD (63 - r) && (rowAt r).getLsbD (63 - c))) false)
    ∧ (∀ v, ∀ j < 8, wordAt (linear v) j = linear64 (wordAt v j))
    ∧ (∀ a b, linear (xor512 a b) = xor512 (linear a) (linear b))
    ∧ linear zero512 = zero512
    ∧ linear64 0x8000000000000000 = rowAt 0
    ∧ linear64 0x0000000000000001 = rowAt 63
    ∧ linear64 (BitVec.allOnes 64) = 0xab8eff9ec7466498
    ∧ Function.Bijective linear64 ∧ Function.Bijective linear
    ∧ linear64 0x0100000000000000 = rowAt 7 ∧ rowAt 7 = 0x83478b07b2468764

/-- 41_spn_primitives.md R125. -/
def Obligations.LpsIsABijection : Prop :=
  (∀ v, lps v = linear (permute (substitute v)))
    ∧ Function.Bijective lps
    ∧ lps zero512 = wordsToVec (List.replicate 8 0xb383fc2eced4a574)
    ∧ lps iv = wordsToVec (List.replicate 8 0x23c5ee40b07b5f15)

/-- 41_spn_primitives.md R129, in the order of its list. -/
def Obligations.PrimitiveLaws : Prop :=
  Function.Bijective substitute
    ∧ (∀ v, permute (permute v) = v)
    ∧ (∀ a b, linear (xor512 a b) = xor512 (linear a) (linear b))
    ∧ (∀ a b, xor512 (xor512 a b) b = a)
    ∧ (∀ v, permute (substitute v) = substitute (permute v))
    ∧ (∀ b, (∃ b', substitute (bytesToVec (List.replicate 64 b)) = bytesToVec (List.replicate 64 b'))
        ∧ ∃ b', permute (bytesToVec (List.replicate 64 b)) = bytesToVec (List.replicate 64 b'))
    ∧ linear (BitVec.allOnes 512) = wordsToVec (List.replicate 8 0xab8eff9ec7466498)
    ∧ (∀ w, ∃ w', linear (wordsToVec (List.replicate 8 w)) = wordsToVec (List.replicate 8 w'))
    ∧ (∀ b, ∃ w, lps (bytesToVec (List.replicate 64 b)) = wordsToVec (List.replicate 8 w))

/-- 41_spn_primitives.md R131. -/
def Obligations.TableFormEqualsLinear : Prop := ∀ w, linear64ByTables w = linear64 w

/-- 41_spn_primitives.md R126. -/
def Obligations.AdditionIsModular : Prop :=
  (∀ a b, add512 a b = intToBits ((bitsToInt a + bitsToInt b) % 2 ^ 512) 512)
    ∧ (∀ a b, bitsToInt (add512 a b) = (bitsToInt a + bitsToInt b) % 2 ^ 512)
    ∧ add512 (BitVec.allOnes 512) 1 = zero512
    ∧ (∀ a b, add512 a b = add512 b a)
    ∧ (∀ a b c, add512 (add512 a b) c = add512 a (add512 b c))
    ∧ (∀ a, add512 a zero512 = a)

/-- 41_spn_primitives.md R127, at every width. -/
def Obligations.IntegerConversionsRoundTrip : Prop :=
  (∀ (w : Nat) (v : BitVec w),
      bitsToInt v = ((List.range w).map fun k => (v.getLsbD k).toNat * 2 ^ k).sum)
    ∧ (∀ w n : Nat, n < 2 ^ w → bitsToInt (intToBits n w) = n)
    ∧ (∀ (w : Nat) (v : BitVec w), intToBits (bitsToInt v) w = v)
    ∧ bitsToInt iv = ((List.range 64).map fun i => 2 ^ (8 * i)).sum

/-! ### Compression -/

/-- 42_compression.md R150. -/
def Obligations.KeyScheduleRecurrence : Prop :=
  (∀ n h,
      (keySchedule n h).length = 13
        ∧ (keySchedule n h).getD 0 0 = lps (xor512 h n)
        ∧ ∀ i, 1 ≤ i → i ≤ 12 →
            (keySchedule n h).getD i 0
              = lps (xor512 ((keySchedule n h).getD (i - 1) 0) (roundConstantAt (i - 1))))
    ∧ (∀ n h n' h', lps (xor512 h n) = lps (xor512 h' n') → keySchedule n h = keySchedule n' h')
    ∧ (∀ h, (keySchedule zero512 h).getD 0 0 = lps h)
    ∧ (∀ h, (keySchedule h h).getD 0 0 = lps zero512)
    ∧ (keySchedule zero512 iv).getD 0 0 = wordsToVec (List.replicate 8 0x23c5ee40b07b5f15)
    ∧ (keySchedule zero512 iv).getD 1 0
        = 0x18ee8f3176b2ebea3bd6cb8233694cea349769df88be26bf451cfab6a904a549da22de93a66a66b19c7e6b5eea633511e611d68c8401bfcd0c7d0cc39d4a5eb9

/-- 42_compression.md R155: twelve LPS rounds under `K0` to `K11`, then `K12` is added. -/
def Obligations.EncryptRunsTwelveRounds : Prop :=
  (∀ (keys : List Word512) (m : Word512), keys.length = 13 →
      ∃ e : Nat → Word512,
        e 0 = m
          ∧ (∀ i < 12, e (i + 1) = lps (xor512 (keys.getD i 0) (e i)))
          ∧ encrypt keys m = xor512 (e 12) (keys.getD 12 0))
    ∧ encrypt (keySchedule zero512 iv) 1
        = 0x6f87fa6931a5019113adaf2fdc943a3e00b4c47384aaf3689340960ea040f172fc83c94bebcfc06213641d49baa08bec265c53d354134a64835cc98983b30115

/-- 42_compression.md R160, with its values for zero inputs and for the empty message's padding step. -/
def Obligations.CompressionFoldsTheCipher : Prop :=
  (∀ n h m, compress n h m = xor512 (xor512 (encrypt (keySchedule n h) m) h) m)
    ∧ (∀ n h, compress n h h = encrypt (keySchedule n h) h)
    ∧ compress zero512 zero512 zero512
        = 0x2a0e2b22fa59ee5c52e1c5b67d322cf4a7e32ae43e21ce04c9c0b31801474609ddbf4b1305f814bbffbdf4d4d19243e5cfd906ca3c7691482e5df4b8e167f4b4
    ∧ compress zero512 iv 1
        = 0x6e86fb6830a4009012acae2edd953b3f01b5c57285abf2699241970fa141f073fd82c84aeacec16312651c48bba18aed275d52d255124b65825dc88882b20015

/-- 42_compression.md section 4: before round `r` the interleaved schedule holds `Kr`, and its result is
`g`. -/
def Obligations.InterleavedScheduleComputesCompression : Prop :=
  (∀ n h m, ∀ r ≤ 12,
      ((tables.roundConstants.take r).foldl engineRound (lps (xor512 h n), m)).1
        = (keySchedule n h).getD r 0)
    ∧ ∀ n h m, compressInterleaved n h m = compress n h m

/-! ### Encoding -/

/-- 30_encoding.md R77: the legal words, and how many there are. -/
def Obligations.LegalWordsAreExactlyThese : Prop :=
  let words : List CmdWord :=
    [0x0000, 0x1000, 0x2000] ++ (List.range 512).map fun len => BitVec.ofNat 16 (0x3000 + len)
  (∀ c : CmdWord, legal c = true ↔ c ∈ words) ∧ words.Nodup ∧ words.length = 515

/-- 30_encoding.md R76: decoding is total, a word is accepted exactly when the three conditions hold, and
an accepted illegal word records ILLEGAL_CMD and has no other effect on the architected state. -/
def Obligations.DecodingIsTotalAndLegalIsTheThreeConditions : Prop :=
  (∀ c : CmdWord,
      legal c = true ↔
        (opField c).toNat ≤ 3 ∧ rsvField c = 0#3 ∧ (opField c = 3#4 ∨ lenField c = 0#9))
    ∧ (∀ c, (∃ i, decode c = .ok i) ↔ legal c = true)
    ∧ (∀ c d s, AtRest s → legal c = false →
        ∃ t, s.command c d = .next t ∧ t.busy = false
          ∧ t.architected = s.architected.withError .illegalCmd)

/-- 30_encoding.md sections 2 and 3: no bit of an encoding is dropped, in either direction. -/
def Obligations.EncodeAndDecodeAgree : Prop :=
  (∀ i, decode (encode i) = .ok i)
    ∧ (∀ c i, decode c = .ok i → encode i = c)
    ∧ ∀ i, decodeTableWord 16 (encode i).toNat = some i

/-- 30_encoding.md R82: the words of its table, assembled from the texts and decoded. -/
def Obligations.ExampleWordsDecode : Prop :=
  (∃ cs,
      assembleText
          (["NOP", "INIT",
            "BLOCK 0x01010101010101010101010101010101010101010101010101010101010101010101010101010101010101010101010101010101010101010101010101010101",
            "LAST 0", "LAST 64, 0x1", "LAST 504, 0x1", "LAST 511, 0x1", "LAST 1, 0x1"].map
              String.toList) = .ok cs
        ∧ cs.map Prod.fst = [0x0000, 0x1000, 0x2000, 0x3000, 0x3040, 0x31F8, 0x31FF, 0x3001])
    ∧ decode 0x0000 = .ok .nop ∧ decode 0x1000 = .ok .init ∧ decode 0x2000 = .ok .block
    ∧ decode 0x3000 = .ok (.last 0) ∧ decode 0x3040 = .ok (.last 64)
    ∧ decode 0x31F8 = .ok (.last 504) ∧ decode 0x31FF = .ok (.last 511)
    ∧ decode 0x3001 = .ok (.last 1)

/-! ### Reset, handshake and latency -/

/-- 43_commands.md section 1: the edge that completes a command runs the decoded command on the state
whose drive for that edge is consumed; a word that does not decode is rejected, and the latches keep it
(the model's choice, log 13). -/
def Obligations.StepRunsTheLatchedCommand : Prop :=
  (∀ s i, s.resetSeen = true → s.busy = true → s.wait = 0 → s.ports.rst = false →
      decode s.cmdLatch = .ok i → step s = exec i { s with inputs := s.inputs.tail })
    ∧ (∀ s e, s.resetSeen = true → s.busy = true → s.wait = 0 → s.ports.rst = false →
        decode s.cmdLatch = .error e →
        step s = .next { s with
          inputs := s.inputs.tail, busy := false, err := true,
          errcode := if s.err then s.errcode else .illegalCmd })
    ∧ ∀ (s : State) i, s.resetSeen = true →
        step (s.withFetchWord 16 (encode i).toNat)
          = exec i { s.withFetchWord 16 (encode i).toNat with inputs := s.inputs.tail }

/-- 70_reset_and_hazards.md R240: at every edge, from every state, also before the first reset, also while
a command is offered or in execution. -/
def Obligations.ResetAtAnyEdge : Prop :=
  ∀ s, s.ports.rst = true →
    cmdReady s = false
      ∧ ∃ t, step s = .next t ∧ t.resetSeen = true ∧ t.busy = false
        ∧ t.architected = State.reset.architected ∧ t.inputs = s.inputs.tail

/-- Reset leaves State.reset in every field, the latches and the wait among them, whose value after reset
is the model's choice (log 2 and log 3): only the host's later drive stands. -/
def Obligations.ResetWritesEveryField : Prop :=
  ∀ s, s.ports.rst = true → step s = .next { State.reset with inputs := s.inputs.tail }

/-- 70_reset_and_hazards.md R241. -/
def Obligations.StateAfterReset : Prop :=
  ∀ s, s.ports.rst = true →
    ∃ t, step s = .next t
      ∧ t.busy = false ∧ t.phase = .accumulating ∧ t.h = iv ∧ t.n = zero512 ∧ t.sigma = zero512
      ∧ t.err = false ∧ t.errcode = .none ∧ status t = 0x00 ∧ digest t = 0
      ∧ (t.ports.rst = false → cmdReady t = true)
      ∧ (t.ports.rst = false → t.ports.cmdValid = true →
          ∃ u, step t = .next u ∧ u.busy = true ∧ u.cmdLatch = t.ports.cmd
            ∧ u.dinLatch = t.ports.din)

/-- 70_reset_and_hazards.md section 1, before the first reset. That an edge without a reset or an offered
command passes, and that a command faults whatever it reads, is the model's reading (log 4). -/
def Obligations.NothingHasAValueBeforeTheFirstReset : Prop :=
  ∀ s, s.resetSeen = false →
    readOutputs s = .error .beforeFirstReset
      ∧ (∀ i, exec i s = .fault .beforeFirstReset)
      ∧ (s.ports.rst = false → s.ports.cmdValid = true → step s = .fault .beforeFirstReset)
      ∧ (s.ports.rst = false → s.ports.cmdValid = false →
          step s = .next { s with inputs := s.inputs.tail })

/-- 70_reset_and_hazards.md section 3, the handshake of R245. The last clause: what a busy core is offered is not recorded, and `din`
and `cmd` at an edge that accepts nothing have no effect. That the latches also keep the accepted words
at the completing edge is the model's choice (log 13). -/
def Obligations.AcceptanceHandshake : Prop :=
  (∀ s, s.resetSeen = true → s.ports.rst = false → s.ports.cmdValid = true → cmdReady s = true →
      ∃ t, step s = .next t ∧ t.busy = true ∧ t.cmdLatch = s.ports.cmd ∧ t.dinLatch = s.ports.din
        ∧ t.inputs = s.inputs.tail)
    ∧ (∀ s, s.resetSeen = true → s.ports.rst = false → s.ports.cmdValid = false →
        cmdReady s = true → step s = .next { s with inputs := s.inputs.tail })
    ∧ (∀ s p, s.resetSeen = true → s.ports.rst = false → cmdReady s = false → p.rst = false →
        step s = step { s with inputs := p :: s.inputs.tail }
          ∧ ∀ t, step s = .next t → t.cmdLatch = s.cmdLatch ∧ t.dinLatch = s.dinLatch)

/-- 70_reset_and_hazards.md section 4 and 10_state.md section 6: from acceptance on, BUSY is 1, PHASE is
FINALIZING for a LAST accepted in ACCUMULATING and otherwise unchanged, and every other register and the
digest keep their values; each waiting edge keeps all of it. That a LAST accepted in DONE keeps PHASE is
the model's reading (log 6, DEDUCED). -/
def Obligations.OutputsWhileACommandExecutes : Prop :=
  (∀ s c d rest, AtRest s → s.inputs = Ports.offer c d :: rest →
      ∃ t, step s = .next t ∧ (status t).extractLsb' 2 1 = 1
        ∧ t.phase = (if isLastWord c = true ∧ s.phase = .accumulating then .finalizing else s.phase)
        ∧ t.h = s.h ∧ t.n = s.n ∧ t.sigma = s.sigma ∧ t.err = s.err ∧ t.errcode = s.errcode
        ∧ digest t = digest s)
    ∧ (∀ s, s.resetSeen = true → s.busy = true → s.wait ≠ 0 → s.ports.rst = false →
        ∃ t, step s = .next t ∧ t.busy = true ∧ t.architected = s.architected
          ∧ status t = status s ∧ digest t = digest s)

/-- 70_reset_and_hazards.md R246, for every value of the latencies, each at least 1 (00_scope.md section 3,
70_reset_and_hazards.md section 3): the latency of each word, BUSY from the accepting edge until the
completing one, and then exactly the command's effect. -/
def Obligations.CommandCompletesAfterItsLatency : Prop :=
  (∀ c p, acceptedWait c p + 1 =
      match decode c with
      | .ok .block => if p = .done then Config.latInit else Config.latBlock
      | .ok (.last _) => if p = .done then Config.latInit else Config.latLast
      | _ => Config.latInit)
    ∧ 1 ≤ Config.latInit ∧ 1 ≤ Config.latBlock ∧ 1 ≤ Config.latLast
    ∧ ∀ s c d drive rest, AtRest s → NoReset drive →
        drive.length = acceptedWait c s.phase + 1 →
        (∀ k ≤ acceptedWait c s.phase,
            ∃ t, core.run (1 + k) { s with inputs := Ports.offer c d :: (drive ++ rest) } = .next t
              ∧ t.busy = true ∧ cmdReady t = false)
          ∧ ∃ t, core.run (1 + drive.length)
                { s with inputs := Ports.offer c d :: (drive ++ rest) } = .next t
              ∧ { s with inputs := rest }.command c d = .next t
              ∧ t.busy = false ∧ t.inputs = rest
              ∧ (t.ports.rst = false → cmdReady t = true)

/-- 70_reset_and_hazards.md R242: a reset at any edge before the completing one leaves the reset state,
with none of the command's writes; without one, a command in execution goes on, or completes with its
effect. -/
def Obligations.ResetAbandonsACommand : Prop :=
  (∀ s c d drive p rest, AtRest s → NoReset drive → drive.length ≤ acceptedWait c s.phase →
      p.rst = true →
      ∃ t, core.run (drive.length + 2) { s with inputs := Ports.offer c d :: (drive ++ p :: rest) }
          = .next t
        ∧ t.busy = false ∧ t.architected = State.reset.architected ∧ t.inputs = rest)
    ∧ ∀ s, s.resetSeen = true → s.busy = true → s.ports.rst = false →
        (s.wait = 0 ∧ step s = { s with inputs := s.inputs.tail }.executeLatched)
          ∨ ∃ t, step s = .next t ∧ t.busy = true ∧ t.cmdLatch = s.cmdLatch
            ∧ t.dinLatch = s.dinLatch ∧ t.wait < s.wait

/-- 20_memory.md section 6: whenever the host offers the commands in order, each to the core at rest, the
core's state is the composition of the commands' effects, in order. Such a drive of the ports exists for
any commands. -/
def Obligations.CommandsComposeInOrder : Prop :=
  ∀ cmds s, AtRest s →
    (∃ drive, OffersInOrder cmds s.phase drive)
      ∧ ∀ drive rest, OffersInOrder cmds s.phase drive →
        ∃ t, core.run drive.length { s with inputs := drive ++ rest } = .next t
          ∧ runCommands cmds { s with inputs := rest } = .next t ∧ AtRest t

/-! ### Whole-machine rules -/

/-- The invariant of Safety.lean holds in the reset state. -/
def Obligations.InvariantHoldsAtReset : Prop := CoreInv State.reset

/-- Every clock edge keeps the invariant: FINALIZING only while a LAST executes, and ERRCODE is NONE
exactly while ERR is 0 (10_state.md sections 2 and 7). -/
def Obligations.EveryStepKeepsTheInvariant : Prop := ∀ s t, CoreInv s → step s = .next t → CoreInv t

/-- 60_exceptions.md section 1: after the first reset no edge stops the core, whatever the host does. -/
def Obligations.NoErrorStopsTheCore : Prop :=
  ∀ s, s.resetSeen = true → ∃ t, step s = .next t ∧ t.resetSeen = true

/-- 43_commands.md R176: `PHASE` after an edge, from any state that meets the invariant. -/
def Obligations.PhaseTransitionsAreExactlyThese : Prop :=
  ∀ s t, CoreInv s → step s = .next t →
    t.phase =
      if s.ports.rst then .accumulating
      else if s.busy then
        if s.wait = 0 then
          match decode s.cmdLatch with
          | .ok .init => .accumulating
          | .ok (.last _) => .done
          | _ => s.phase
        else s.phase
      else if s.ports.cmdValid = true ∧ isLastWord s.ports.cmd = true ∧ s.phase = .accumulating then
        .finalizing
      else s.phase

/-- 10_state.md section 1: `H`, `N` and `SIGMA` change only at a reset or at the completion of an INIT, or
of a BLOCK or LAST that is not in DONE. -/
def Obligations.OnlyCommandsAndResetWriteTheDataRegisters : Prop :=
  ∀ s t, CoreInv s → step s = .next t →
    (t.h ≠ s.h ∨ t.n ≠ s.n ∨ t.sigma ≠ s.sigma) →
    s.ports.rst = true
      ∨ (s.busy = true ∧ s.wait = 0
          ∧ (decode s.cmdLatch = .ok .init
              ∨ (s.phase ≠ .done
                  ∧ (decode s.cmdLatch = .ok .block ∨ ∃ len, decode s.cmdLatch = .ok (.last len)))))

/-- 10_state.md section 7: what sets and clears BUSY, ERR and ERRCODE. -/
def Obligations.FlagsAreSetAndClearedOnlyByTheirEvents : Prop :=
  ∀ s t, CoreInv s → step s = .next t →
    (s.busy = false → t.busy = true → s.ports.rst = false ∧ s.ports.cmdValid = true)
      ∧ (s.busy = true → t.busy = false → s.ports.rst = true ∨ s.wait = 0)
      ∧ (s.err = true → t.err = false →
          s.ports.rst = true ∨ (s.busy = true ∧ s.wait = 0 ∧ decode s.cmdLatch = .ok .init))
      ∧ (s.err = true → t.err = true → t.errcode = s.errcode)
      ∧ (s.err = false → t.err = false → t.errcode = s.errcode)
      ∧ (s.err = false → t.err = true →
          s.ports.rst = false ∧ s.busy = true ∧ s.wait = 0
            ∧ ((legal s.cmdLatch = false ∧ t.errcode = .illegalCmd)
                ∨ (s.phase = .done ∧ t.errcode = .sequence
                  ∧ (decode s.cmdLatch = .ok .block ∨ ∃ len, decode s.cmdLatch = .ok (.last len)))))

/-! ### The commands -/

/-- 43_commands.md section 2, the effect of NOP. The next states are written whole; that the latches keep
their values in them is the model's choice (log 13). -/
def Obligations.NopChangesNothing : Prop :=
  (∀ s, s.resetSeen = true → exec .nop s = .next { s with busy := false })
    ∧ (∀ s, AtRest s → exec .nop s = .next s)
    ∧ (∀ s d, AtRest s →
        (s.accept 0x0000 d).busy = true
          ∧ ∃ t, s.command 0x0000 d = .next t ∧ t.busy = false ∧ t.architected = s.architected)
    ∧ (∀ s c d, AtRest s → opField c = 0#4 → c ≠ 0x0000 →
        ∃ t, s.command c d = .next t ∧ t.architected = s.architected.withError .illegalCmd)

/-- 43_commands.md section 2, the effect of INIT. The next state is written whole; that the latches keep
their values in it is the model's choice (log 13). -/
def Obligations.InitStartsAMessage : Prop :=
  (∀ s, s.resetSeen = true →
      ∃ t, exec .init s = .next t
        ∧ t = { s with
            h := iv, n := zero512, sigma := zero512, phase := .accumulating, err := false,
            errcode := .none, busy := false }
        ∧ dvalid t = false ∧ digest t = 0 ∧ status t = 0x00)
    ∧ (∀ d, ∃ t, State.reset.command 0x1000 d = .next t
        ∧ t.architected = State.reset.architected ∧ t.busy = false)

/-- 43_commands.md section 2, the effect of BLOCK. The next states are written whole; that the latches keep
their values in them is the model's choice (log 13). -/
def Obligations.BlockAbsorbsItsBlock : Prop :=
  (∀ s, s.resetSeen = true → s.phase = .accumulating →
      exec .block s = .next { s with
        h := compress s.n s.h s.dinLatch, n := s.n + 512, sigma := s.sigma + s.dinLatch,
        busy := false })
    ∧ (∀ s, s.resetSeen = true → s.phase = .done →
        exec .block s = .next { s with
          err := true, errcode := if s.err then s.errcode else .sequence, busy := false })
    ∧ (∀ s c d, AtRest s → opField c = 2#4 → (lenField c ≠ 0#9 ∨ rsvField c ≠ 0#3) →
        ∃ t, s.command c d = .next t ∧ t.architected = s.architected.withError .illegalCmd)
    ∧ ∃ t, State.reset.command 0x2000 0 = .next t
        ∧ t.h = 0x3941f3938f9f52737257483f620d45116412099b9adda13efbcb9287456ad3d5c9ec3702cc69220a5e6f4451ecbb7b67bd2a86b7f9cd70a2777581b838485eea
        ∧ t.n = 0x200 ∧ t.sigma = zero512

/-- 43_commands.md section 2, the effect of LAST: the phase from acceptance on, the effect at completion, in
DONE the error, and the standard's first test message. The next states are written whole; that the latches
keep their values in them is the model's choice (log 13). -/
def Obligations.LastPadsAndFinalizes : Prop :=
  (∀ s len, s.resetSeen = true → s.phase = .finalizing →
      let block := BitVec.ofNat 512 (2 ^ len.toNat + s.dinLatch.toNat % 2 ^ len.toNat)
      let h1 := compress s.n s.h block
      let n1 := s.n + BitVec.ofNat 512 len.toNat
      let s1 := s.sigma + block
      let h2 := compress zero512 h1 n1
      let h3 := compress zero512 h2 s1
      ∃ t, exec (.last len) s = .next t
        ∧ t = { s with h := h3, n := n1, sigma := s1, phase := .done, busy := false }
        ∧ (s.err = false → dvalid t = true))
    ∧ (∀ (s : State) len d, s.phase = .accumulating →
        (s.accept (encode (.last len)) d).phase = .finalizing)
    ∧ (∀ s, s.resetSeen = true → s.busy = true → s.wait ≠ 0 → s.ports.rst = false →
        s.phase = .finalizing →
        ∃ t, step s = .next t ∧ t.phase = .finalizing ∧ (status t).extractLsb' 0 2 = 0b01)
    ∧ (∀ s len, s.resetSeen = true → s.phase = .done →
        exec (.last len) s = .next { s with
          err := true, errcode := if s.err then s.errcode else .sequence, busy := false })
    ∧ (∀ len, legal (encode (.last len)) = true)
    ∧ ∃ t, State.reset.command 0x31f8
          0x323130393837363534333231303938373635343332313039383736353433323130393837363534333231303938373635343332313039383736353433323130
          = .next t
        ∧ digest t = 0x00557be5e584fd52a449b16b0251d05d27f94ab76cbaa6da890b59d8ef1e159d

/-- Log 6: at completion BLOCK and LAST ask of PHASE only whether it is DONE, so that each has its effect
also in the phase that no accepted BLOCK or LAST completes in. The latches in the next states: log 13. -/
def Obligations.OnlyDoneRaisesSequence : Prop :=
  ∀ s, s.resetSeen = true → s.phase ≠ .done →
    exec .block s = .next { s with
        h := compress s.n s.h s.dinLatch, n := s.n + 512, sigma := s.sigma + s.dinLatch,
        busy := false }
      ∧ ∀ len,
        let block := BitVec.ofNat 512 (2 ^ len.toNat + s.dinLatch.toNat % 2 ^ len.toNat)
        let n1 := s.n + BitVec.ofNat 512 len.toNat
        let s1 := s.sigma + block
        exec (.last len) s = .next { s with
          h := compress zero512 (compress zero512 (compress s.n s.h block) n1) s1, n := n1,
          sigma := s1, phase := .done, busy := false }

/-- 10_state.md section 9 as frames: what each command leaves unchanged. No command writes the host's drive
or any register its row of the table of R37 does not name; a command in DONE that raises SEQUENCE writes
ERR and ERRCODE only. That the latches keep the accepted words after completion is the model's choice
(log 13): R32 leaves their contents unspecified. -/
def Obligations.CommandFrames : Prop :=
  (∀ i s t, exec i s = .next t →
      t.busy = false ∧ t.cmdLatch = s.cmdLatch ∧ t.dinLatch = s.dinLatch ∧ t.wait = s.wait
        ∧ t.resetSeen = s.resetSeen ∧ t.inputs = s.inputs)
    ∧ (∀ s t, exec .nop s = .next t → t.architected = s.architected)
    ∧ (∀ s t, exec .init s = .next t → t.architected = State.reset.architected)
    ∧ (∀ s t, exec .block s = .next t → s.phase ≠ .done →
        t.phase = s.phase ∧ t.err = s.err ∧ t.errcode = s.errcode)
    ∧ (∀ s t len, exec (.last len) s = .next t → s.phase ≠ .done →
        t.err = s.err ∧ t.errcode = s.errcode)
    ∧ (∀ s t i, exec i s = .next t → s.phase = .done → i ≠ .init →
        t.h = s.h ∧ t.n = s.n ∧ t.sigma = s.sigma ∧ t.phase = s.phase)

/-- 60_exceptions.md R224. -/
def Obligations.SequenceErrorInDone : Prop :=
  ∀ s i d, AtRest s → s.phase = .done → (i = .block ∨ ∃ len, i = .last len) →
    ∃ t, s.command (encode i) d = .next t ∧ t.busy = false
      ∧ t.architected = s.architected.withError .sequence
      ∧ digest t = digest s ∧ dvalid t = false

/-- 60_exceptions.md R223 and 30_encoding.md R78: in every phase, and whatever `din` is. -/
def Obligations.IllegalWordRaisesIllegalCmd : Prop :=
  ∀ s c d, AtRest s →
    (4 ≤ (opField c).toNat ∨ rsvField c ≠ 0#3 ∨ (lenField c ≠ 0#9 ∧ opField c ≠ 3#4)) →
    ∃ t, s.command c d = .next t ∧ t.busy = false
      ∧ t.architected = s.architected.withError .illegalCmd

/-- 60_exceptions.md R221. -/
def Obligations.FirstErrorCodeIsKept : Prop :=
  ∀ (s : State) code,
    (s.err = false → (s.raiseError code).errcode = code)
      ∧ (s.err = true → (s.raiseError code).errcode = s.errcode)
      ∧ (s.raiseError code).err = true
      ∧ (s.raiseError code).h = s.h ∧ (s.raiseError code).n = s.n
      ∧ (s.raiseError code).sigma = s.sigma ∧ (s.raiseError code).phase = s.phase

/-- 60_exceptions.md R225: an illegal word in DONE raises ILLEGAL_CMD, a legal BLOCK or LAST there
SEQUENCE, and reset has priority over every command, offered or in execution. -/
def Obligations.IllegalCmdHasPriority : Prop :=
  (∀ s c d, AtRest s → s.phase = .done → s.err = false → (2 ≤ (opField c).toNat) →
      ∃ t, s.command c d = .next t
        ∧ t.errcode = if legal c then .sequence else .illegalCmd)
    ∧ ∀ s, s.ports.rst = true →
        ∃ t, step s = .next t ∧ t.busy = false ∧ t.architected = State.reset.architected

/-! ### Status, digest and operands -/

/-- 10_state.md section 3. That BUSY is "NOT cmd_ready" only at an edge without reset is the model's
reading of R27 beside R240 (log 5). -/
def Obligations.StatusFields : Prop :=
  (∀ s : State,
      (status s).extractLsb' 0 2
          = (match s.phase with | .accumulating => 0b00 | .finalizing => 0b01 | .done => 0b10)
        ∧ (status s).getLsbD 2 = s.busy
        ∧ (s.ports.rst = false → s.busy = !cmdReady s)
        ∧ (status s).getLsbD 3 = s.err
        ∧ (status s).extractLsb' 4 3
          = (match s.errcode with | .none => 0b000 | .illegalCmd => 0b001 | .sequence => 0b010)
        ∧ ((status s).getLsbD 7 = true ↔ s.phase = .done ∧ s.err = false))
    ∧ status State.reset = 0x00

/-- 10_state.md R29. -/
def Obligations.DigestOutput : Prop :=
  (∀ s, s.phase = .done →
      ∀ k < 256, (digest s).getLsbD k = s.h.getLsbD (256 + k))
    ∧ (∀ s, s.phase ≠ .done → digest s = 0)
    ∧ digest State.reset = 0

/-- 43_commands.md R180: only the low LEN bits of `din` reach any result. -/
def Obligations.TailUsesTheLowBitsOnly : Prop :=
  (∀ len d, ∀ k < 512, (tail len d).getLsbD k = (decide (k < len.toNat) && d.getLsbD k))
    ∧ ∀ s len d d', AtRest s → (∀ k < len.toNat, d.getLsbD k = d'.getLsbD k) →
        ∃ t t', s.command (encode (.last len)) d = .next t
          ∧ s.command (encode (.last len)) d' = .next t' ∧ t.architected = t'.architected

/-- 43_commands.md R182. -/
def Obligations.PaddedBlockForm : Prop :=
  ∀ len d,
    bitsToInt (padded len d) = 2 ^ len.toNat + bitsToInt (tail len d)
      ∧ (padded len d).getLsbD len.toNat = true
      ∧ (∀ k, len.toNat < k → k ≤ 511 → (padded len d).getLsbD k = false)
      ∧ (∀ k < len.toNat, (padded len d).getLsbD k = d.getLsbD k)

/-! ### Messages -/

/-- 43_commands.md R190, first half: in DONE no command but INIT changes the digest, `H` or PHASE. -/
def Obligations.DigestStaysUntilInit : Prop :=
  ∀ cmds s, AtRest s → s.phase = .done → (∀ cd ∈ cmds, cd.1 ≠ encode .init) →
    ∃ t, runCommands cmds s = .next t ∧ AtRest t ∧ t.phase = .done
      ∧ t.h = s.h ∧ t.n = s.n ∧ t.sigma = s.sigma ∧ digest t = digest s

/-- 43_commands.md section 5: what follows an INIT does not depend on what came before it. -/
def Obligations.ResultDependsOnlyOnCommandsSinceInit : Prop :=
  ∀ cmds d s s', AtRest s → AtRest s' →
    ∃ t t', runCommands ((encode .init, d) :: cmds) s = .next t
      ∧ runCommands ((encode .init, d) :: cmds) s' = .next t'
      ∧ t.architected = t'.architected ∧ status t = status t' ∧ digest t = digest t'

/-- 43_commands.md R184 and R185: after a message of blocks and a tail, `N` is its length in bits and
`SIGMA` the sum of its blocks and the padded block, both modulo 2^512. -/
def Obligations.CountersOverAMessage : Prop :=
  ∀ (blocks : List Word512) len d s, AtRest s →
    ∃ t, runCommands
          ((encode .init, 0) :: (blocks.map fun b => (encode .block, b))
            ++ [(encode (.last len), d)]) s = .next t
      ∧ t.n.toNat = (512 * blocks.length + len.toNat) % 2 ^ 512
      ∧ t.sigma.toNat
          = ((blocks.map BitVec.toNat).sum + (padded len d).toNat) % 2 ^ 512
      ∧ t.phase = .done

/-- 60_exceptions.md section 2: an error recorded during a message is never followed by a digest, until
INIT. -/
def Obligations.NoDigestAfterAnError : Prop :=
  ∀ cmds s, AtRest s → s.err = true → (∀ cd ∈ cmds, cd.1 ≠ encode .init) →
    ∃ t, runCommands cmds s = .next t ∧ t.err = true ∧ dvalid t = false
      ∧ readDigest t = .error .noDigest

/-- 44_host_boundary.md R205: the blocks and the tail are the message, cut from its end, and the commands
are these. -/
def Obligations.BlockSplitIsTheMessage : Prop :=
  ∀ m : Message, m.value < 2 ^ m.length →
    m.value
        = (tailValue m).toNat * 2 ^ (512 * blockCount m)
          + ((List.range (blockCount m)).map fun j =>
              (messageBlock m (j + 1)).toNat * 2 ^ (512 * j)).sum
      ∧ (tailValue m).toNat < 2 ^ (tailLength m).toNat
      ∧ m.length = 512 * blockCount m + (tailLength m).toNat
      ∧ messageCommands m
          = (List.range (blockCount m)).map (fun j => ((0x2000 : CmdWord), messageBlock m (j + 1)))
            ++ [(0x3000 ||| (tailLength m).setWidth 16, tailValue m)]

/-- 44_host_boundary.md R207: driving the ports with the sequence of R205 leaves the digest of the source's
algorithm, from any state at rest and for every value of the latencies. 70_reset_and_hazards.md R250: the
observation of that run is (0x82, digest) and its result the digest; a run whose LAST a reset abandons is
observed in the state after reset, and fails; one that never accepts a LAST, or is kept in reset after
it, has no observation. HashContract says the same of the sequence without its INIT, directly after
reset. -/
def Obligations.MessageDigestIsTheReferenceDigest : Prop :=
  (∀ (bits : List Bool) s rest, AtRest s →
      let m : Message := { value := bitsValue bits, length := bits.length }
      let drive := driveOf (hashCommands m)
      ∃ t, core.run drive.length { s with inputs := drive ++ rest } = .next t
        ∧ t.inputs = rest ∧ AtRest t ∧ dvalid t = true ∧ digest t = referenceHash bits
        ∧ (t.ports.rst = false → ∀ k, drive.length ≤ k →
            observation k { s with inputs := drive ++ rest } = some (0x82, referenceHash bits))
        ∧ runResult (0x82, referenceHash bits) = .ok (referenceHash bits))
    ∧ (∀ v, (messageCommands { value := v, length := 511 }).map (·.1) = [0x31FF])
    ∧ (∀ v, (messageCommands { value := v, length := 512 }).map (·.1) = [0x2000, 0x3000])
    ∧ (∀ v, (messageCommands { value := v, length := 513 }).map (·.1) = [0x2000, 0x3001])
    ∧ (∀ (s : State) len d drive p rest k, AtRest s → NoReset drive →
        drive.length ≤ acceptedWait (encode (.last len)) s.phase → p.rst = true →
        (rest.headD .idle).rst = false → drive.length + 2 ≤ k →
        observation k { s with inputs := Ports.offer (encode (.last len)) d :: (drive ++ p :: rest) }
            = some (0x00, 0)
          ∧ runResult (0x00, 0) = .error .noDigest)
    ∧ (∀ (s : State) k,
        (∀ q ∈ s.inputs, q.rst = true ∨ q.cmdValid = false ∨ isLastWord q.cmd = false) →
        observation k s = none)
    ∧ ∀ (s : State) len d resets rest k, AtRest s → (∀ q ∈ resets, q.rst = true) →
        k ≤ resets.length →
        observation k { s with inputs := Ports.offer (encode (.last len)) d :: (resets ++ rest) } = none

/-- 44_host_boundary.md section 3 and section 5: `hash` is the hex form of the reference digest of the
normalized input, or the normalizer's error; its result has 64 characters, does not depend on the state
the core was in, and is the same for the empty string in both modes; directly after reset the commands
without INIT give the same digest (section 4). The host that runs `hash` drives nothing else (log 14).
The last three clauses are R201: the bits of RAW_UTF8 are those of the UTF-8 bytes in order, each most
significant bit first, and the UTF-8 encoding itself is taken from outside the spec (log 8). -/
def Obligations.HashContract : Prop :=
  (∀ mode input s, AtRest s →
      coreHash mode input s =
        (match normalize mode input with
        | .error e => .error e
        | .ok m => .ok (hexOut (referenceHash (bitsOf m.value m.length)))))
    ∧ (∀ mode input s out, AtRest s → coreHash mode input s = .ok out → out.length = 64)
    ∧ (∀ mode input s s', AtRest s → AtRest s' → coreHash mode input s = coreHash mode input s')
    ∧ (∀ s, AtRest s → coreHash .hex [] s = coreHash .rawUtf8 [] s)
    ∧ (∀ mode input m, normalize mode input = .ok m →
        ∃ t, runCommands (messageCommands m) State.reset = .next t
          ∧ readDigest t = .ok (referenceHash (bitsOf m.value m.length)))
    ∧ (∀ input,
        normalize .rawUtf8 input = .ok (normalizeRaw input)
          ∧ (normalizeRaw input).length = 8 * (utf8Bytes input).length
          ∧ (∀ b ∈ utf8Bytes input, b < 256)
          ∧ (normalizeRaw input).value
            = ((List.range (utf8Bytes input).length).map fun i =>
                (utf8Bytes input).getD i 0 * 2 ^ (8 * ((utf8Bytes input).length - 1 - i))).sum)
    ∧ (∀ a b, utf8Bytes (a ++ b) = utf8Bytes a ++ utf8Bytes b)
    ∧ ∀ ch : Char,
        let v := ch.toNat
        utf8Bytes [ch] =
          if v < 0x80 then [v]
          else if v < 0x800 then [0xc0 + v / 64, 0x80 + v % 64]
          else if v < 0x10000 then [0xe0 + v / 4096, 0x80 + v / 64 % 64, 0x80 + v % 64]
          else [0xf0 + v / 262144, 0x80 + v / 4096 % 64, 0x80 + v / 64 % 64, 0x80 + v % 64]

/-- 44_host_boundary.md R202. -/
def Obligations.HexNormalizer : Prop :=
  (∀ s, (∃ m, normalizeHex s = .ok m) ↔ ∀ ch ∈ s, ch ∈ "0123456789abcdefABCDEF".toList)
    ∧ (∀ s, (∃ ch ∈ s, ch ∉ "0123456789abcdefABCDEF".toList) →
        normalizeHex s = .error .invalidHexInput)
    ∧ (∀ s m, normalizeHex s = .ok m →
        m.length = 4 * s.length ∧ m.value < 2 ^ m.length)
    ∧ "0123456789abcdefABCDEF".toList.map hexDigit?
        = [some 0, some 1, some 2, some 3, some 4, some 5, some 6, some 7, some 8, some 9, some 10,
            some 11, some 12, some 13, some 14, some 15, some 10, some 11, some 12, some 13, some 14,
            some 15]
    ∧ (∀ s m ch d, normalizeHex s = .ok m → hexDigit? ch = some d →
        normalizeHex (s ++ [ch]) = .ok { value := 16 * m.value + d, length := m.length + 4 })
    ∧ (∀ s, normalizeHex (s.map Char.toUpper) = normalizeHex s)
    ∧ normalizeHex [] = .ok { value := 0, length := 0 }
    ∧ normalizeRaw [] = { value := 0, length := 0 }
    ∧ normalizeHex "ABC".toList = .ok { value := 0xabc, length := 12 }
    ∧ normalizeHex "abc".toList = .ok { value := 0xabc, length := 12 }

/-- 44_host_boundary.md R203: 64 lowercase hex digits, most significant nibble first, whose number is the
digest. -/
def Obligations.HexOutput : Prop :=
  (∀ d,
      (hexOut d).length = 64
        ∧ (∀ k < 64, (hexOut d)[k]? =
            "0123456789abcdef".toList[(d.extractLsb' (252 - 4 * k) 4).toNat]?)
        ∧ (∀ ch ∈ hexOut d, ch ∈ "0123456789abcdef".toList)
        ∧ (hexDigits? (hexOut d)).map (ofDigits 16) = some d.toNat)
    ∧ hexOut 0xbbe19c8d2025d99f943a932a0b365a822aa36a4c479d22cc02c8973e219a533f
        = "bbe19c8d2025d99f943a932a0b365a822aa36a4c479d22cc02c8973e219a533f".toList

/-- 30_encoding.md section 5: the commands of each line, LAST exactly when its operands are in range, and
the pseudo-commands expanded as the table of R81 says. The `din` 0 of NOP and INIT, the INIT that HASHBITS
always emits and the range check of its value are the model's choice (log 12). -/
def Obligations.AssemblerForms : Prop :=
  assemble .nop = .ok [(0x0000, 0)] ∧ assemble .init = .ok [(0x1000, 0)]
    ∧ (∀ v, assemble (.block v) = .ok [(0x2000, v)])
    ∧ (∀ len v, len ≤ 511 → v < 2 ^ len →
        assemble (.last len v)
          = .ok [(BitVec.ofNat 16 (0x3000 + len), BitVec.ofNat 512 v)])
    ∧ (∀ len v, (511 < len ∨ 2 ^ len ≤ v) → ∃ e, assemble (.last len v) = .error e)
    ∧ (∀ n v, v < 2 ^ n →
        assemble (.hashBits n v)
          = .ok ((0x1000, 0)
              :: (List.range (n / 512)).map
                  (fun j => (0x2000, BitVec.ofNat 512 (v / 2 ^ (512 * j) % 2 ^ 512)))
              ++ [(BitVec.ofNat 16 (0x3000 + n % 512), BitVec.ofNat 512 (v / 2 ^ (512 * (n / 512))))]))
    ∧ (∀ n v, 2 ^ n ≤ v → assemble (.hashBits n v) = .error .valueRange)
    ∧ (∀ s m, normalizeHex s = .ok m →
        assemble (.hashHex s) = assemble (.hashBits m.length m.value))
    ∧ (∀ s, (∃ ch ∈ s, ch ∉ "0123456789abcdefABCDEF".toList) →
        assemble (.hashHex s) = .error .invalidHexInput)
    ∧ (∀ s, assemble (.hashRaw s)
        = assemble (.hashBits (normalizeRaw s).length (normalizeRaw s).value))
    ∧ assemble .waitReady = .ok []

/-- 20_memory.md section 6 and 60_exceptions.md section 4: in any interleaving of the edges of several
cores, each core ends in the state that its own edges alone give it. -/
def Obligations.CoresAreIndependent : Prop :=
  ∀ (ks : List Nat) (cores cores' : List State), stepCores ks cores = .next cores' →
    cores'.length = cores.length
      ∧ ∀ (k : Nat) (s : State), cores[k]? = some s →
          ∃ s' : State, cores'[k]? = some s' ∧ core.run (ks.count k) s = .next s'
end

