-- ==== Sys2Proof/Laws/State.lean ====
section
/-! SUPPORT. The fields of the state after each operation of Machine/Ops.lean, one lemma per field, so
that no proof unfolds a record update. -/

namespace Sys2Proof.Machine

/-- Two states with equal fields are equal: how to show that an operation gives a state written out. -/
theorem State.eq_of_fields {s t : State} (h : s.h = t.h) (n : s.n = t.n) (sigma : s.sigma = t.sigma)
    (phase : s.phase = t.phase) (err : s.err = t.err) (errcode : s.errcode = t.errcode)
    (busy : s.busy = t.busy) (cmdLatch : s.cmdLatch = t.cmdLatch) (dinLatch : s.dinLatch = t.dinLatch)
    (wait : s.wait = t.wait) (resetSeen : s.resetSeen = t.resetSeen) (inputs : s.inputs = t.inputs) :
    s = t := by
  cases s
  cases t
  simp_all

/-! ### This core's tables -/

@[simp] theorem tables_iv : tables.iv = iv := rfl

@[simp] theorem tables_compress (n h m : Word512) : tables.compress n h m = compress n h m := rfl

/-! ### Fields after completion -/

@[simp] theorem State.finish_h (s : State) :
    s.finish.h = s.h := by cases s; rfl

@[simp] theorem State.finish_n (s : State) :
    s.finish.n = s.n := by cases s; rfl

@[simp] theorem State.finish_sigma (s : State) :
    s.finish.sigma = s.sigma := by cases s; rfl

@[simp] theorem State.finish_phase (s : State) :
    s.finish.phase = s.phase := by cases s; rfl

@[simp] theorem State.finish_err (s : State) :
    s.finish.err = s.err := by cases s; rfl

@[simp] theorem State.finish_errcode (s : State) :
    s.finish.errcode = s.errcode := by cases s; rfl

@[simp] theorem State.finish_busy (s : State) :
    s.finish.busy = false := by cases s; rfl

@[simp] theorem State.finish_cmdLatch (s : State) :
    s.finish.cmdLatch = s.cmdLatch := by cases s; rfl

@[simp] theorem State.finish_dinLatch (s : State) :
    s.finish.dinLatch = s.dinLatch := by cases s; rfl

@[simp] theorem State.finish_wait (s : State) :
    s.finish.wait = s.wait := by cases s; rfl

@[simp] theorem State.finish_resetSeen (s : State) :
    s.finish.resetSeen = s.resetSeen := by cases s; rfl

@[simp] theorem State.finish_inputs (s : State) :
    s.finish.inputs = s.inputs := by cases s; rfl

/-! ### Fields after raising an error -/

@[simp] theorem State.raiseError_h (s : State) (code : ErrCode) :
    (s.raiseError code).h = s.h := by cases s; rfl

@[simp] theorem State.raiseError_n (s : State) (code : ErrCode) :
    (s.raiseError code).n = s.n := by cases s; rfl

@[simp] theorem State.raiseError_sigma (s : State) (code : ErrCode) :
    (s.raiseError code).sigma = s.sigma := by cases s; rfl

@[simp] theorem State.raiseError_phase (s : State) (code : ErrCode) :
    (s.raiseError code).phase = s.phase := by cases s; rfl

@[simp] theorem State.raiseError_err (s : State) (code : ErrCode) :
    (s.raiseError code).err = true := by cases s; rfl

@[simp] theorem State.raiseError_errcode (s : State) (code : ErrCode) :
    (s.raiseError code).errcode = if s.err then s.errcode else code := by cases s; rfl

@[simp] theorem State.raiseError_busy (s : State) (code : ErrCode) :
    (s.raiseError code).busy = s.busy := by cases s; rfl

@[simp] theorem State.raiseError_cmdLatch (s : State) (code : ErrCode) :
    (s.raiseError code).cmdLatch = s.cmdLatch := by cases s; rfl

@[simp] theorem State.raiseError_dinLatch (s : State) (code : ErrCode) :
    (s.raiseError code).dinLatch = s.dinLatch := by cases s; rfl

@[simp] theorem State.raiseError_wait (s : State) (code : ErrCode) :
    (s.raiseError code).wait = s.wait := by cases s; rfl

@[simp] theorem State.raiseError_resetSeen (s : State) (code : ErrCode) :
    (s.raiseError code).resetSeen = s.resetSeen := by cases s; rfl

@[simp] theorem State.raiseError_inputs (s : State) (code : ErrCode) :
    (s.raiseError code).inputs = s.inputs := by cases s; rfl

/-! ### Fields after the writes of INIT -/

@[simp] theorem State.startMessage_h (s : State) (t : Tables) :
    (s.startMessage t).h = t.iv := by cases s; rfl

@[simp] theorem State.startMessage_n (s : State) (t : Tables) :
    (s.startMessage t).n = zero512 := by cases s; rfl

@[simp] theorem State.startMessage_sigma (s : State) (t : Tables) :
    (s.startMessage t).sigma = zero512 := by cases s; rfl

@[simp] theorem State.startMessage_phase (s : State) (t : Tables) :
    (s.startMessage t).phase = .accumulating := by cases s; rfl

@[simp] theorem State.startMessage_err (s : State) (t : Tables) :
    (s.startMessage t).err = false := by cases s; rfl

@[simp] theorem State.startMessage_errcode (s : State) (t : Tables) :
    (s.startMessage t).errcode = .none := by cases s; rfl

@[simp] theorem State.startMessage_busy (s : State) (t : Tables) :
    (s.startMessage t).busy = s.busy := by cases s; rfl

@[simp] theorem State.startMessage_cmdLatch (s : State) (t : Tables) :
    (s.startMessage t).cmdLatch = s.cmdLatch := by cases s; rfl

@[simp] theorem State.startMessage_dinLatch (s : State) (t : Tables) :
    (s.startMessage t).dinLatch = s.dinLatch := by cases s; rfl

@[simp] theorem State.startMessage_wait (s : State) (t : Tables) :
    (s.startMessage t).wait = s.wait := by cases s; rfl

@[simp] theorem State.startMessage_resetSeen (s : State) (t : Tables) :
    (s.startMessage t).resetSeen = s.resetSeen := by cases s; rfl

@[simp] theorem State.startMessage_inputs (s : State) (t : Tables) :
    (s.startMessage t).inputs = s.inputs := by cases s; rfl

/-! ### Fields after the writes of BLOCK -/

@[simp] theorem State.absorb_h (s : State) (t : Tables) (m : Word512) :
    (s.absorb t m).h = t.compress s.n s.h m := by cases s; rfl

@[simp] theorem State.absorb_n (s : State) (t : Tables) (m : Word512) :
    (s.absorb t m).n = add512 s.n (intToBits 512 512) := by cases s; rfl

@[simp] theorem State.absorb_sigma (s : State) (t : Tables) (m : Word512) :
    (s.absorb t m).sigma = add512 s.sigma m := by cases s; rfl

@[simp] theorem State.absorb_phase (s : State) (t : Tables) (m : Word512) :
    (s.absorb t m).phase = s.phase := by cases s; rfl

@[simp] theorem State.absorb_err (s : State) (t : Tables) (m : Word512) :
    (s.absorb t m).err = s.err := by cases s; rfl

@[simp] theorem State.absorb_errcode (s : State) (t : Tables) (m : Word512) :
    (s.absorb t m).errcode = s.errcode := by cases s; rfl

@[simp] theorem State.absorb_busy (s : State) (t : Tables) (m : Word512) :
    (s.absorb t m).busy = s.busy := by cases s; rfl

@[simp] theorem State.absorb_cmdLatch (s : State) (t : Tables) (m : Word512) :
    (s.absorb t m).cmdLatch = s.cmdLatch := by cases s; rfl

@[simp] theorem State.absorb_dinLatch (s : State) (t : Tables) (m : Word512) :
    (s.absorb t m).dinLatch = s.dinLatch := by cases s; rfl

@[simp] theorem State.absorb_wait (s : State) (t : Tables) (m : Word512) :
    (s.absorb t m).wait = s.wait := by cases s; rfl

@[simp] theorem State.absorb_resetSeen (s : State) (t : Tables) (m : Word512) :
    (s.absorb t m).resetSeen = s.resetSeen := by cases s; rfl

@[simp] theorem State.absorb_inputs (s : State) (t : Tables) (m : Word512) :
    (s.absorb t m).inputs = s.inputs := by cases s; rfl

/-! ### Fields after the writes of LAST -/

@[simp] theorem State.finalizeMessage_h (s : State) (t : Tables) (len : BitVec 9) (d : Word512) :
    (s.finalizeMessage t len d).h = 
      t.compress zero512
        (t.compress zero512 (t.compress s.n s.h (padded len d)) (add512 s.n (lenBits len)))
        (add512 s.sigma (padded len d)) := by cases s; rfl

@[simp] theorem State.finalizeMessage_n (s : State) (t : Tables) (len : BitVec 9) (d : Word512) :
    (s.finalizeMessage t len d).n = add512 s.n (lenBits len) := by cases s; rfl

@[simp] theorem State.finalizeMessage_sigma (s : State) (t : Tables) (len : BitVec 9) (d : Word512) :
    (s.finalizeMessage t len d).sigma = add512 s.sigma (padded len d) := by cases s; rfl

@[simp] theorem State.finalizeMessage_phase (s : State) (t : Tables) (len : BitVec 9) (d : Word512) :
    (s.finalizeMessage t len d).phase = .done := by cases s; rfl

@[simp] theorem State.finalizeMessage_err (s : State) (t : Tables) (len : BitVec 9) (d : Word512) :
    (s.finalizeMessage t len d).err = s.err := by cases s; rfl

@[simp] theorem State.finalizeMessage_errcode (s : State) (t : Tables) (len : BitVec 9) (d : Word512) :
    (s.finalizeMessage t len d).errcode = s.errcode := by cases s; rfl

@[simp] theorem State.finalizeMessage_busy (s : State) (t : Tables) (len : BitVec 9) (d : Word512) :
    (s.finalizeMessage t len d).busy = s.busy := by cases s; rfl

@[simp] theorem State.finalizeMessage_cmdLatch (s : State) (t : Tables) (len : BitVec 9) (d : Word512) :
    (s.finalizeMessage t len d).cmdLatch = s.cmdLatch := by cases s; rfl

@[simp] theorem State.finalizeMessage_dinLatch (s : State) (t : Tables) (len : BitVec 9) (d : Word512) :
    (s.finalizeMessage t len d).dinLatch = s.dinLatch := by cases s; rfl

@[simp] theorem State.finalizeMessage_wait (s : State) (t : Tables) (len : BitVec 9) (d : Word512) :
    (s.finalizeMessage t len d).wait = s.wait := by cases s; rfl

@[simp] theorem State.finalizeMessage_resetSeen (s : State) (t : Tables) (len : BitVec 9) (d : Word512) :
    (s.finalizeMessage t len d).resetSeen = s.resetSeen := by cases s; rfl

@[simp] theorem State.finalizeMessage_inputs (s : State) (t : Tables) (len : BitVec 9) (d : Word512) :
    (s.finalizeMessage t len d).inputs = s.inputs := by cases s; rfl

/-! ### Fields after acceptance -/

@[simp] theorem State.accept_h (s : State) (c : CmdWord) (d : Word512) :
    (s.accept c d).h = s.h := by cases s; rfl

@[simp] theorem State.accept_n (s : State) (c : CmdWord) (d : Word512) :
    (s.accept c d).n = s.n := by cases s; rfl

@[simp] theorem State.accept_sigma (s : State) (c : CmdWord) (d : Word512) :
    (s.accept c d).sigma = s.sigma := by cases s; rfl

@[simp] theorem State.accept_phase (s : State) (c : CmdWord) (d : Word512) :
    (s.accept c d).phase = acceptedPhase c s.phase := by cases s; rfl

@[simp] theorem State.accept_err (s : State) (c : CmdWord) (d : Word512) :
    (s.accept c d).err = s.err := by cases s; rfl

@[simp] theorem State.accept_errcode (s : State) (c : CmdWord) (d : Word512) :
    (s.accept c d).errcode = s.errcode := by cases s; rfl

@[simp] theorem State.accept_busy (s : State) (c : CmdWord) (d : Word512) :
    (s.accept c d).busy = true := by cases s; rfl

@[simp] theorem State.accept_cmdLatch (s : State) (c : CmdWord) (d : Word512) :
    (s.accept c d).cmdLatch = c := by cases s; rfl

@[simp] theorem State.accept_dinLatch (s : State) (c : CmdWord) (d : Word512) :
    (s.accept c d).dinLatch = d := by cases s; rfl

@[simp] theorem State.accept_wait (s : State) (c : CmdWord) (d : Word512) :
    (s.accept c d).wait = acceptedWait c s.phase := by cases s; rfl

@[simp] theorem State.accept_resetSeen (s : State) (c : CmdWord) (d : Word512) :
    (s.accept c d).resetSeen = s.resetSeen := by cases s; rfl

@[simp] theorem State.accept_inputs (s : State) (c : CmdWord) (d : Word512) :
    (s.accept c d).inputs = s.inputs := by cases s; rfl

/-! ### Fields after a waiting edge -/

@[simp] theorem State.tick_h (s : State) :
    s.tick.h = s.h := by cases s; rfl

@[simp] theorem State.tick_n (s : State) :
    s.tick.n = s.n := by cases s; rfl

@[simp] theorem State.tick_sigma (s : State) :
    s.tick.sigma = s.sigma := by cases s; rfl

@[simp] theorem State.tick_phase (s : State) :
    s.tick.phase = s.phase := by cases s; rfl

@[simp] theorem State.tick_err (s : State) :
    s.tick.err = s.err := by cases s; rfl

@[simp] theorem State.tick_errcode (s : State) :
    s.tick.errcode = s.errcode := by cases s; rfl

@[simp] theorem State.tick_busy (s : State) :
    s.tick.busy = s.busy := by cases s; rfl

@[simp] theorem State.tick_cmdLatch (s : State) :
    s.tick.cmdLatch = s.cmdLatch := by cases s; rfl

@[simp] theorem State.tick_dinLatch (s : State) :
    s.tick.dinLatch = s.dinLatch := by cases s; rfl

@[simp] theorem State.tick_wait (s : State) :
    s.tick.wait = s.wait - 1 := by cases s; rfl

@[simp] theorem State.tick_resetSeen (s : State) :
    s.tick.resetSeen = s.resetSeen := by cases s; rfl

@[simp] theorem State.tick_inputs (s : State) :
    s.tick.inputs = s.inputs := by cases s; rfl

/-! ### Fields after consuming the drive of an edge -/

@[simp] theorem State.popInput_h (s : State) :
    s.popInput.h = s.h := by cases s; rfl

@[simp] theorem State.popInput_n (s : State) :
    s.popInput.n = s.n := by cases s; rfl

@[simp] theorem State.popInput_sigma (s : State) :
    s.popInput.sigma = s.sigma := by cases s; rfl

@[simp] theorem State.popInput_phase (s : State) :
    s.popInput.phase = s.phase := by cases s; rfl

@[simp] theorem State.popInput_err (s : State) :
    s.popInput.err = s.err := by cases s; rfl

@[simp] theorem State.popInput_errcode (s : State) :
    s.popInput.errcode = s.errcode := by cases s; rfl

@[simp] theorem State.popInput_busy (s : State) :
    s.popInput.busy = s.busy := by cases s; rfl

@[simp] theorem State.popInput_cmdLatch (s : State) :
    s.popInput.cmdLatch = s.cmdLatch := by cases s; rfl

@[simp] theorem State.popInput_dinLatch (s : State) :
    s.popInput.dinLatch = s.dinLatch := by cases s; rfl

@[simp] theorem State.popInput_wait (s : State) :
    s.popInput.wait = s.wait := by cases s; rfl

@[simp] theorem State.popInput_resetSeen (s : State) :
    s.popInput.resetSeen = s.resetSeen := by cases s; rfl

@[simp] theorem State.popInput_inputs (s : State) :
    s.popInput.inputs = s.inputs.tail := by cases s; rfl

/-! ### Fields of the reset state and after reset -/

@[simp] theorem State.reset_h : State.reset.h = iv := rfl

@[simp] theorem State.reset_n : State.reset.n = zero512 := rfl

@[simp] theorem State.reset_sigma : State.reset.sigma = zero512 := rfl

@[simp] theorem State.reset_phase : State.reset.phase = .accumulating := rfl

@[simp] theorem State.reset_err : State.reset.err = false := rfl

@[simp] theorem State.reset_errcode : State.reset.errcode = .none := rfl

@[simp] theorem State.reset_busy : State.reset.busy = false := rfl

@[simp] theorem State.reset_cmdLatch : State.reset.cmdLatch = 0 := rfl

@[simp] theorem State.reset_dinLatch : State.reset.dinLatch = 0 := rfl

@[simp] theorem State.reset_wait : State.reset.wait = 0 := rfl

@[simp] theorem State.reset_resetSeen : State.reset.resetSeen = true := rfl

@[simp] theorem State.reset_inputs : State.reset.inputs = [] := rfl

@[simp] theorem State.applyReset_h (s : State) (t : Tables) : (s.applyReset t).h = t.iv := by cases s; rfl

@[simp] theorem State.applyReset_n (s : State) (t : Tables) : (s.applyReset t).n = zero512 := by cases s; rfl

@[simp] theorem State.applyReset_sigma (s : State) (t : Tables) : (s.applyReset t).sigma = zero512 := by cases s; rfl

@[simp] theorem State.applyReset_phase (s : State) (t : Tables) : (s.applyReset t).phase = .accumulating := by cases s; rfl

@[simp] theorem State.applyReset_err (s : State) (t : Tables) : (s.applyReset t).err = false := by cases s; rfl

@[simp] theorem State.applyReset_errcode (s : State) (t : Tables) : (s.applyReset t).errcode = .none := by cases s; rfl

@[simp] theorem State.applyReset_busy (s : State) (t : Tables) : (s.applyReset t).busy = false := by cases s; rfl

@[simp] theorem State.applyReset_cmdLatch (s : State) (t : Tables) : (s.applyReset t).cmdLatch = 0 := by cases s; rfl

@[simp] theorem State.applyReset_dinLatch (s : State) (t : Tables) : (s.applyReset t).dinLatch = 0 := by cases s; rfl

@[simp] theorem State.applyReset_wait (s : State) (t : Tables) : (s.applyReset t).wait = 0 := by cases s; rfl

@[simp] theorem State.applyReset_resetSeen (s : State) (t : Tables) : (s.applyReset t).resetSeen = true := by cases s; rfl

@[simp] theorem State.applyReset_inputs (s : State) (t : Tables) : (s.applyReset t).inputs = s.inputs := by cases s; rfl

/-! ### The architected part -/

@[simp] theorem State.finish_architected (s : State) : s.finish.architected = s.architected := by cases s; rfl

@[simp] theorem State.popInput_architected (s : State) : s.popInput.architected = s.architected := by cases s; rfl

@[simp] theorem State.tick_architected (s : State) : s.tick.architected = s.architected := by cases s; rfl

@[simp] theorem State.popInput_ports (s : State) : s.popInput.ports = s.inputs.tail.headD .idle := by cases s; rfl

/-- An error writes ERR and ERRCODE and leaves every other field alone. -/
theorem State.raiseError_frame (s : State) (code : ErrCode) :
    s.raiseError code
      = { s with err := true, errcode := if s.err then s.errcode else code } := by cases s; rfl

end Sys2Proof.Machine
end

