-- ==== Sys2Proof/Laws/Ops.lean ====
section
/-! SUPPORT. What each shared operation can do, said once: the guard before the first reset, the decision
on DONE, the meanings, the completion of a latched command, one clock edge, and a whole command. -/

namespace Sys2Proof.Machine

/-! ### The guard of every meaning -/

theorem whenReset_eq {s : State} (hs : s.resetSeen = true) (k : Result) : s.whenReset k = k := by
  simp [State.whenReset, hs]

theorem whenReset_before {s : State} (hs : s.resetSeen = false) (k : Result) :
    s.whenReset k = .fault .beforeFirstReset := by
  simp [State.whenReset, hs]

theorem whenReset_next {s t : State} {k : Result} (h : s.whenReset k = .next t) :
    s.resetSeen = true ∧ k = .next t := by
  unfold State.whenReset at h
  split at h
  · exact ⟨‹_›, h⟩
  · cases h

/-! ### BLOCK and LAST in DONE -/

theorem unlessDone_done {s : State} (hs : s.phase = .done) (t : State) :
    s.unlessDone t = s.raiseError .sequence := by
  simp [State.unlessDone, hs]

theorem unlessDone_else {s : State} (hs : s.phase ≠ .done) (t : State) : s.unlessDone t = t := by
  simp [State.unlessDone, hs]

/-! ### The meanings: each answers a next state once a reset has happened -/

theorem execNop_eq {s : State} (hs : s.resetSeen = true) : execNop s = .next s.finish :=
  whenReset_eq hs _

theorem execInit_eq {s : State} (hs : s.resetSeen = true) :
    execInit s = .next (s.startMessage tables).finish :=
  whenReset_eq hs _

theorem execBlock_eq {s : State} (hs : s.resetSeen = true) :
    execBlock s = .next (s.unlessDone (s.absorb tables s.dinLatch)).finish :=
  whenReset_eq hs _

theorem execLast_eq {s : State} (hs : s.resetSeen = true) (len : BitVec 9) :
    execLast len s = .next (s.unlessDone (s.finalizeMessage tables len s.dinLatch)).finish :=
  whenReset_eq hs _

/-- What the meaning of an instruction writes, once a reset has happened. -/
def written (i : Instr) (s : State) : State :=
  match i with
  | .nop => s
  | .init => s.startMessage tables
  | .block => s.unlessDone (s.absorb tables s.dinLatch)
  | .last len => s.unlessDone (s.finalizeMessage tables len s.dinLatch)

theorem exec_eq {s : State} (hs : s.resetSeen = true) (i : Instr) :
    exec i s = .next (written i s).finish := by
  cases i with
  | nop => exact execNop_eq hs
  | init => exact execInit_eq hs
  | block => exact execBlock_eq hs
  | last len => exact execLast_eq hs len

theorem exec_before {s : State} (hs : s.resetSeen = false) (i : Instr) :
    exec i s = .fault .beforeFirstReset := by
  cases i <;> exact whenReset_before hs _

/-! ### Completion of the latched command -/

/-- What the completion of the latched command writes. -/
def completed (s : State) : State :=
  match decode s.cmdLatch with
  | .ok i => written i s
  | .error _ => s.raiseError .illegalCmd

theorem executeLatched_eq {s : State} (hs : s.resetSeen = true) :
    s.executeLatched = .next (completed s).finish := by
  unfold State.executeLatched State.executeLatchedBy completed
  cases decode s.cmdLatch with
  | ok i => exact exec_eq hs i
  | error _ => exact whenReset_eq hs _

theorem executeLatched_before {s : State} (hs : s.resetSeen = false) :
    s.executeLatched = .fault .beforeFirstReset := by
  unfold State.executeLatched State.executeLatchedBy
  split
  · exact exec_before hs _
  · exact whenReset_before hs _

/-- Completion writes none of the latches, the host's drive or the wait. -/
theorem completed_frame (s : State) :
    (completed s).cmdLatch = s.cmdLatch ∧ (completed s).dinLatch = s.dinLatch
      ∧ (completed s).wait = s.wait ∧ (completed s).inputs = s.inputs
      ∧ (completed s).resetSeen = s.resetSeen ∧ (completed s).busy = s.busy := by
  unfold completed
  split
  · rename_i i _
    cases i <;> simp [written, State.unlessDone] <;> split <;> simp
  · simp

/-! ### One clock edge -/

/-- The five things a clock edge after the first reset can do. -/
theorem clockEdge_eq {s : State} (hs : s.resetSeen = true) :
    clockEdge s = .next (
      if s.ports.rst then s.popInput.applyReset tables
      else if s.busy then
        if s.wait = 0 then (completed s.popInput).finish else s.popInput.tick
      else if s.ports.cmdValid then s.popInput.accept s.ports.cmd s.ports.din
      else s.popInput) := by
  have hp : s.popInput.resetSeen = true := hs
  have hrun : s.popInput.executeLatchedBy exec = .next (completed s.popInput).finish :=
    executeLatched_eq hp
  simp only [clockEdge, clockEdgeOf, hs, hrun]
  repeat' split
  all_goals simp_all

/-- An edge before the first reset: reset, idling, or a fault. -/
theorem clockEdge_before {s : State} (hs : s.resetSeen = false) :
    clockEdge s =
      if s.ports.rst then .next (s.popInput.applyReset tables)
      else if s.ports.cmdValid then .fault .beforeFirstReset else .next s.popInput := by
  simp [clockEdge, clockEdgeOf, hs]

/-- A clock edge never refuses. -/
theorem clockEdge_not_refused (s : State) (r : Refusal) : clockEdge s ≠ .refused r := by
  rcases hs : s.resetSeen with _ | _
  · rw [clockEdge_before hs]
    repeat' split
    all_goals simp
  · rw [clockEdge_eq hs]
    simp

/-! ### Whole commands -/

theorem command_eq {s : State} (hs : s.resetSeen = true) (c : CmdWord) (d : Word512) :
    s.command c d = .next (completed { s.accept c d with wait := 0 }).finish :=
  executeLatched_eq hs

theorem runCommands_nil (s : State) : runCommands [] s = .next s := rfl

theorem runCommands_cons {s t : State} {c : CmdWord} {d : Word512}
    (h : s.command c d = .next t) (rest : List (CmdWord × Word512)) :
    runCommands ((c, d) :: rest) s = runCommands rest t := by
  simp [runCommands, h]

theorem runCommands_append (first second : List (CmdWord × Word512)) {s t : State}
    (h : runCommands first s = .next t) :
    runCommands (first ++ second) s = runCommands second t := by
  induction first generalizing s with
  | nil =>
    cases h
    rfl
  | cons cd rest ih =>
    obtain ⟨c, d⟩ := cd
    simp only [List.cons_append, runCommands] at h ⊢
    split at h
    · exact ih h
    · cases h
    · cases h

/-! ### Steps of the machine -/

/-- One step, then the rest of a run. -/
theorem run_succ {s t : State} (h : step s = .next t) (k : Nat) :
    Sys2Proof.core.run (k + 1) s = Sys2Proof.core.run k t := by
  have h' : Sys2Proof.core.step s = .next t := h
  simp only [Host.Core.run, h']

theorem run_zero (s : State) : Sys2Proof.core.run 0 s = .next s := rfl

theorem run_one (s : State) : Sys2Proof.core.run 1 s = step s := by
  cases hst : step s with
  | next t =>
    rw [run_succ hst]
    rfl
  | fault r =>
    have h : Sys2Proof.core.step s = .fault r := hst
    simp only [Host.Core.run, h]
    rfl
  | refused r =>
    have h : Sys2Proof.core.step s = .refused r := hst
    simp only [Host.Core.run, h]
    rfl

/-- A run that goes on after a first part of it. -/
theorem run_add {a : Nat} (b : Nat) {s t : State} (h : Sys2Proof.core.run a s = .next t) :
    Sys2Proof.core.run (a + b) s = Sys2Proof.core.run b t := by
  induction a generalizing s with
  | zero =>
    injection h with h
    subst h
    rw [Nat.zero_add]
  | succ a ih =>
    rw [Nat.succ_add]
    cases hst : step s with
    | next u =>
      rw [run_succ hst] at h ⊢
      exact ih h
    | fault r =>
      have h' : Sys2Proof.core.step s = .fault r := hst
      simp [Host.Core.run, h'] at h
    | refused r =>
      have h' : Sys2Proof.core.step s = .refused r := hst
      simp [Host.Core.run, h'] at h

/-! ### The observation of a run -/

theorem firstReady_ready {s : State} (h : cmdReady s = true) (k : Nat) :
    firstReady k s = some (status s, digest s) := by
  unfold firstReady
  rw [if_pos h]

theorem firstReady_zero {s : State} (h : cmdReady s = false) : firstReady 0 s = none := by
  simp [firstReady, h]

theorem firstReady_succ {s t : State} (h : cmdReady s = false) (hst : step s = .next t) (k : Nat) :
    firstReady (k + 1) s = firstReady k t := by
  rw [firstReady]
  simp only [h, hst]
  rfl

theorem observation_accept {s t : State} (h : acceptsLast s = true) (hst : step s = .next t) (k : Nat) :
    observation (k + 1) s = firstReady k t := by
  simp only [observation, hst, h, if_true]

theorem observation_skip {s t : State} (h : acceptsLast s = false) (hst : step s = .next t) (k : Nat) :
    observation (k + 1) s = observation k t := by
  simp only [observation, hst, h]
  rfl

/-- A core that is not ready, or is not offered a LAST, accepts none. -/
theorem acceptsLast_false {s : State}
    (h : s.ports.rst = true ∨ s.ports.cmdValid = false ∨ isLastWord s.ports.cmd = false) :
    acceptsLast s = false := by
  rcases h with h | h | h <;> simp [acceptsLast, cmdReady, h]

end Sys2Proof.Machine
end

