-- ==== Sys2Proof/Laws/PerInstr.lean ====
section
/-! SUPPORT. A statement about every command as syntax, one lemma per constructor. -/

/-- The word of the command is legal by 30_encoding.md R76, its OP field is its opcode of R73, and its
LEN field is zero unless it is a LAST (R74). -/
def Sys2Proof.Laws.LegalWord.Statement (i : Sys2Proof.Instr) : Prop :=
  Sys2Proof.legal (Sys2Proof.encode i) = true
    ∧ Sys2Proof.opField (Sys2Proof.encode i)
        = (match i with | .nop => 0#4 | .init => 1#4 | .block => 2#4 | .last _ => 3#4)
    ∧ Sys2Proof.lenField (Sys2Proof.encode i)
        = (match i with | .last len => len | _ => 0#9)

theorem Sys2Proof.Laws.LegalWord.nop : Sys2Proof.Laws.LegalWord.Statement .nop := by
  refine ⟨?_, ?_, ?_⟩ <;> decide

theorem Sys2Proof.Laws.LegalWord.init : Sys2Proof.Laws.LegalWord.Statement .init := by
  refine ⟨?_, ?_, ?_⟩ <;> decide

theorem Sys2Proof.Laws.LegalWord.block : Sys2Proof.Laws.LegalWord.Statement .block := by
  refine ⟨?_, ?_, ?_⟩ <;> decide

/-- The OP field of a LAST's word. -/
theorem Sys2Proof.Laws.LegalWord.op_last (len : BitVec 9) :
    Sys2Proof.opField (Sys2Proof.encode (.last len)) = 3#4 := by
  refine BitVec.eq_of_getLsbD_eq fun k hk => ?_
  have hhigh : len.getLsbD (12 + k) = false := BitVec.getLsbD_of_ge len _ (by omega)
  simp only [Sys2Proof.opField, Sys2Proof.encode, BitVec.getLsbD_extractLsb', BitVec.getLsbD_or,
    BitVec.getLsbD_setWidth, hhigh]
  interval_cases k <;> decide

/-- The RSV field of a LAST's word. -/
theorem Sys2Proof.Laws.LegalWord.rsv_last (len : BitVec 9) :
    Sys2Proof.rsvField (Sys2Proof.encode (.last len)) = 0#3 := by
  refine BitVec.eq_of_getLsbD_eq fun k hk => ?_
  have hhigh : len.getLsbD (9 + k) = false := BitVec.getLsbD_of_ge len _ (by omega)
  simp only [Sys2Proof.rsvField, Sys2Proof.encode, BitVec.getLsbD_extractLsb', BitVec.getLsbD_or,
    BitVec.getLsbD_setWidth, hhigh]
  interval_cases k <;> decide

/-- The LEN field of a LAST's word is its length. -/
theorem Sys2Proof.Laws.LegalWord.len_last (len : BitVec 9) :
    Sys2Proof.lenField (Sys2Proof.encode (.last len)) = len := by
  refine BitVec.eq_of_getLsbD_eq fun k hk => ?_
  have hzero : (0x3000#16).getLsbD k = false := by
    interval_cases k <;> decide
  simp only [Sys2Proof.lenField, Sys2Proof.encode, BitVec.getLsbD_extractLsb', BitVec.getLsbD_or,
    BitVec.getLsbD_setWidth, Nat.zero_add, hzero]
  simp [hk]
  omega

theorem Sys2Proof.Laws.LegalWord.last (len : BitVec 9) :
    Sys2Proof.Laws.LegalWord.Statement (.last len) := by
  refine ⟨?_, Sys2Proof.Laws.LegalWord.op_last len, Sys2Proof.Laws.LegalWord.len_last len⟩
  simp [Sys2Proof.legal, Sys2Proof.Laws.LegalWord.op_last, Sys2Proof.Laws.LegalWord.rsv_last]
end

