-- ==== Sys2Proof/Laws/Vectors.lean ====
section
/-! SUPPORT. The parts of a 512-bit vector: joining parts and taking one of them (00_scope.md R9), and
equality of vectors part by part. -/

namespace Sys2Proof.Machine

/-- Bit `k` of joined parts, above the bits of `acc`: it lies in the part counted from the last. -/
theorem joinFrom_getLsbD {w : Nat} (parts : List (BitVec w)) (acc : Word512) {k : Nat} (hk : k < 512) :
    (parts.foldl (fun (v : Word512) b => v <<< w ||| b.setWidth 512) acc).getLsbD k
      = if k < w * parts.length then
          (parts.getD (parts.length - 1 - k / w) 0).getLsbD (k % w)
        else acc.getLsbD (k - w * parts.length) := by
  induction parts generalizing acc with
  | nil => simp
  | cons b bs ih =>
    rw [List.foldl_cons, ih]
    have hmul : w * (bs.length + 1) = w * bs.length + w := by ring
    simp only [List.length_cons, hmul]
    by_cases h1 : k < w * bs.length
    · have hdiv : k / w < bs.length := Nat.div_lt_of_lt_mul h1
      have hidx : bs.length + 1 - 1 - k / w = (bs.length - 1 - k / w) + 1 := by omega
      rw [if_pos h1, if_pos (by omega), hidx, List.getD_cons_succ]
    · rw [if_neg h1]
      by_cases h2 : k < w * bs.length + w
      · have hw : 0 < w := by omega
        have hdiv : k / w = bs.length := by
          refine Nat.div_eq_of_lt_le ?_ ?_
          · rw [Nat.mul_comm]
            omega
          · rw [Nat.mul_comm, Nat.mul_add, Nat.mul_one]
            exact h2
        have hmod : k % w = k - w * bs.length := by
          have := Nat.div_add_mod k w
          rw [hdiv] at this
          omega
        rw [if_pos h2, hdiv, hmod]
        simp only [Nat.add_sub_cancel, Nat.sub_self, List.getD_cons_zero, BitVec.getLsbD_or,
          BitVec.getLsbD_shiftLeft, BitVec.getLsbD_setWidth]
        have hlt : k - w * bs.length < w := by omega
        have hlt' : k - w * bs.length < 512 := by omega
        simp [hlt, hlt']
      · rw [if_neg h2]
        have hge : ¬ k - w * bs.length < w := by omega
        have hlt : k - w * bs.length < 512 := by omega
        have hsub : k - w * bs.length - w = k - (w * bs.length + w) := by omega
        have hhigh : b.getLsbD (k - w * bs.length) = false :=
          BitVec.getLsbD_of_ge b _ (by omega)
        simp only [BitVec.getLsbD_or, BitVec.getLsbD_shiftLeft, BitVec.getLsbD_setWidth]
        simp [hge, hlt, hsub, hhigh]

/-- Part `i` of joined parts, counted from the most significant. -/
theorem joinParts_part {w : Nat} (parts : List (BitVec w)) (hlen : w * parts.length ≤ 512) {i : Nat}
    (hi : i < parts.length) :
    (joinParts parts).extractLsb' (w * (parts.length - 1 - i)) w = parts.getD i 0 := by
  refine BitVec.eq_of_getLsbD_eq fun j hj => ?_
  have hw : 0 < w := by omega
  have hbound : w * (parts.length - 1 - i) + j < w * parts.length := by
    have : w * (parts.length - 1 - i) + w ≤ w * parts.length := by
      rw [← Nat.mul_succ]
      exact Nat.mul_le_mul_left w (by omega)
    omega
  rw [BitVec.getLsbD_extractLsb', joinParts, joinFrom_getLsbD parts 0 (by omega), if_pos hbound]
  have hdiv : (w * (parts.length - 1 - i) + j) / w = parts.length - 1 - i := by
    rw [Nat.mul_add_div hw, Nat.div_eq_of_lt hj, Nat.add_zero]
  have hmod : (w * (parts.length - 1 - i) + j) % w = j := by
    rw [Nat.mul_add_mod, Nat.mod_eq_of_lt hj]
  have hidx : parts.length - 1 - (parts.length - 1 - i) = i := by omega
  simp [hdiv, hmod, hidx, hj]

/-- `byte(bytes_to_vec(b0, ..., b63), i) = bi` (R9). -/
theorem byteAt_bytesToVec (bytes : List Byte) (hlen : bytes.length = 64) {i : Nat} (hi : i < 64) :
    byteAt (bytesToVec bytes) i = bytes.getD i 0 := by
  have h := joinParts_part bytes (by omega) (i := i) (by omega)
  have hpos : 8 * (bytes.length - 1 - i) = 504 - 8 * i := by omega
  rw [hpos] at h
  exact h

/-- Sub-block `j` of joined sub-blocks (R9). -/
theorem wordAt_wordsToVec (words : List Word64) (hlen : words.length = 8) {j : Nat} (hj : j < 8) :
    wordAt (wordsToVec words) j = words.getD j 0 := by
  have h := joinParts_part words (by omega) (i := j) (by omega)
  have hpos : 64 * (words.length - 1 - j) = 448 - 64 * j := by omega
  rw [hpos] at h
  exact h

/-- A bit of a vector lies in one of its bytes. -/
theorem getLsbD_byteAt (v : Word512) {k : Nat} (hk : k < 512) :
    v.getLsbD k = (byteAt v (63 - k / 8)).getLsbD (k % 8) := by
  have hpos : 504 - 8 * (63 - k / 8) + k % 8 = k := by omega
  have hlt : k % 8 < 8 := Nat.mod_lt k (by omega)
  rw [byteAt, BitVec.getLsbD_extractLsb', hpos]
  simp [hlt]

/-- A bit of a vector lies in one of its sub-blocks. -/
theorem getLsbD_wordAt (v : Word512) {k : Nat} (hk : k < 512) :
    v.getLsbD k = (wordAt v (7 - k / 64)).getLsbD (k % 64) := by
  have hpos : 448 - 64 * (7 - k / 64) + k % 64 = k := by omega
  have hlt : k % 64 < 64 := Nat.mod_lt k (by omega)
  rw [wordAt, BitVec.getLsbD_extractLsb', hpos]
  simp [hlt]

/-- Vectors with the same 64 bytes are equal. -/
theorem eq_of_bytes {a b : Word512} (h : ∀ i < 64, byteAt a i = byteAt b i) : a = b := by
  refine BitVec.eq_of_getLsbD_eq fun k hk => ?_
  rw [getLsbD_byteAt a hk, getLsbD_byteAt b hk, h _ (by omega)]

/-- Vectors with the same 8 sub-blocks are equal. -/
theorem eq_of_words {a b : Word512} (h : ∀ j < 8, wordAt a j = wordAt b j) : a = b := by
  refine BitVec.eq_of_getLsbD_eq fun k hk => ?_
  rw [getLsbD_wordAt a hk, getLsbD_wordAt b hk, h _ (by omega)]

theorem wordAt_xor (a b : Word512) (j : Nat) : wordAt (a ^^^ b) j = wordAt a j ^^^ wordAt b j := by
  refine BitVec.eq_of_getLsbD_eq fun k hk => ?_
  simp [wordAt, hk]

/-- The model's modular addition is the library's (R126). -/
theorem add512_eq (a b : Word512) : add512 a b = a + b := by
  refine BitVec.eq_of_toNat_eq ?_
  simp only [add512, intToBits, bitsToInt, BitVec.toNat_ofNat, BitVec.toNat_add, Nat.mod_mod]

end Sys2Proof.Machine
end

