-- ==== Sys2Proof/Tests/Slice0.lean ====
section
/-! SUPPORT. Tests with values from spec/, each named by what it tests: the build checks refuse ill-formed
tables, words decode as their encodings say, each command at one clock edge, and for every obligation
with hypotheses a state and operands that meet them. -/

namespace Sys2Proof.Tests

open Sys2Proof.Machine

/-! ### The build checks (40_constants.md R105) -/

/-- An S-box that takes the value 0xee twice, and 0x00 never, is no bijection. -/
theorem test_wellformed_refuses_sbox :
    ({ tables with sbox := tables.sbox.set 0xa5 0xee } : Tables).wellFormed = false := by decide +kernel

theorem test_wellformed_refuses_short_sbox :
    ({ tables with sbox := tables.sbox.dropLast } : Tables).wellFormed = false := by decide +kernel

theorem test_wellformed_refuses_tau :
    ({ tables with tau := tables.tau.set 0 1 } : Tables).tauOk = false := by decide +kernel

theorem test_wellformed_refuses_rows :
    ({ tables with rows := tables.rows.dropLast } : Tables).rowsOk = false := by decide +kernel

theorem test_wellformed_refuses_round_constants :
    ({ tables with roundConstants := [] } : Tables).roundConstantsOk = false := by decide +kernel

/-! ### Decoding (30_encoding.md R70, R73, R76): OP, RSV, LEN written out bit by bit -/

theorem test_decode_nop : decode 0b0000000000000000 = .ok .nop := by rfl

theorem test_decode_init : decode 0b0001000000000000 = .ok .init := by rfl

theorem test_decode_block : decode 0b0010000000000000 = .ok .block := by rfl

theorem test_decode_last : decode 0b0011000101010101 = .ok (.last 0b101010101) := by rfl

theorem test_decode_reserved_opcode :
    decode 0b0100000000000000 = .error .reservedOpcode
      ∧ decode 0b1111000000000000 = .error .reservedOpcode := ⟨rfl, rfl⟩

/-- 0x3200, one above the last word of LAST, and each single bit of RSV. -/
theorem test_decode_reserved_field :
    decode 0b0011001000000000 = .error .reservedField
      ∧ decode 0b0000010000000000 = .error .reservedField
      ∧ decode 0b0010100000000000 = .error .reservedField := ⟨rfl, rfl, rfl⟩

theorem test_decode_length_field :
    decode 0b0000000000000001 = .error .lengthField ∧ decode 0b0001000100000000 = .error .lengthField
      ∧ decode 0b0010000100000000 = .error .lengthField := ⟨rfl, rfl, rfl⟩

theorem test_table_words :
    decodeTableWord 16 0x0000 = some .nop ∧ decodeTableWord 16 0x1000 = some .init
      ∧ decodeTableWord 16 0x2000 = some .block ∧ decodeTableWord 16 0x31ff = some (.last 511)
      ∧ decodeTableWord 16 0x4000 = none := ⟨rfl, rfl, rfl, rfl, rfl⟩

/-! ### States for the tests -/

/-- A finished message: PHASE is DONE. -/
def doneState : State := { State.reset with phase := .done, h := 0xfc, n := 0x1f8, sigma := 0x5 }

/-- A finished message in which an error was recorded. -/
def doneWithError : State := { doneState with err := true, errcode := .illegalCmd }

/-- The word `c` in execution, `wait` edges before the completing one. -/
def executing (c : CmdWord) (phase : Phase) (wait : Nat) : State :=
  { State.reset with busy := true, cmdLatch := c, dinLatch := 0x3, phase := phase, wait := wait }

/-- `s` with the host's drive of one edge. -/
def driven (s : State) (p : Ports) : State := { s with inputs := [p] }

theorem atRest_reset : AtRest State.reset := ⟨rfl, rfl, by decide⟩

theorem atRest_doneState : AtRest doneState := ⟨rfl, rfl, by decide⟩

theorem atRest_doneWithError : AtRest doneWithError := ⟨rfl, rfl, by decide⟩

theorem atRest_driven_offer : AtRest (driven State.reset (.offer 0x3000 0)) := ⟨rfl, rfl, by decide⟩

theorem inv_doneWithError : CoreInv doneWithError :=
  ⟨rfl, by decide, by decide, by decide⟩

theorem inv_executing_last : CoreInv (executing 0x3000 .finalizing 0) :=
  ⟨rfl, by decide, by decide, by decide⟩

/-! ### One clock edge for each command -/

/-- What one field of a next state is. -/
def fieldAfter {α : Type} (r : Result) (field : State → α) : Option α :=
  match r with
  | .next t => some (field t)
  | _ => none

/-- R171: NOP is legal in DONE and clears BUSY only. -/
theorem test_nop : fieldAfter (step (executing 0x0000 .done 0)) (fun t => (status t, t.n))
    = some (0x82, zero512) := by decide +kernel

/-- R172: "after a finished message (PHASE = DONE), `INIT` gives ... `status = 0x00`". -/
theorem test_init : fieldAfter (step { executing 0x1000 .done 0 with err := true, errcode := .sequence })
    (fun t => (status t, t.h == iv, digest t)) = some (0x00, true, 0) := by decide +kernel

/-- R173, 95_test_vectors.md section 5, program 4: the zero block from reset. -/
theorem test_block : fieldAfter (step (State.reset.withFetchWord 16 0x2000)) State.h
    = some 0x3941f3938f9f52737257483f620d45116412099b9adda13efbcb9287456ad3d5c9ec3702cc69220a5e6f4451ecbb7b67bd2a86b7f9cd70a2777581b838485eea := by decide +kernel

/-- R224: BLOCK in DONE: DVALID 0, ERRCODE 2, ERR 1, PHASE DONE. -/
theorem test_block_in_done : fieldAfter (step (executing 0x2000 .done 0)) status = some 0b00101010 := by
  decide +kernel

/-- R174, 95_test_vectors.md section 1.3: the digest of the empty message. -/
theorem test_last : fieldAfter (step (State.reset.withFetchWord 16 0x3000)) digest
    = some 0xbbe19c8d2025d99f943a932a0b365a822aa36a4c479d22cc02c8973e219a533f := by decide +kernel

/-- R180, R182: `LAST 3` of the bits 0b...11111010 pads 0b010 to 0b1010. -/
theorem test_last_pads : padded 3 0xfa = 0b1010 ∧ padded 0 0xfa = 1 ∧ tail 511 (BitVec.allOnes 512) = mask 511
    ∧ padded 511 (BitVec.allOnes 512) = BitVec.allOnes 512 := by decide +kernel

/-- R223: an illegal word, here LEN on BLOCK, raises ILLEGAL_CMD: ERRCODE 1, ERR 1. -/
theorem test_illegal_word : fieldAfter (step (executing 0x2001 .accumulating 0)) status
    = some 0b00011000 := by decide +kernel

/-- R249: the status while a BLOCK and while a LAST executes, and after reset. -/
theorem test_status_values :
    status (State.reset.accept 0x2000 0) = 0x04 ∧ status (State.reset.accept 0x3000 0) = 0x05
      ∧ status (doneState.accept 0x1000 0) = 0x86 ∧ status State.reset = 0x00 := by decide +kernel

/-- 41_spn_primitives.md R125: `LPS(IV)`. -/
theorem test_lps : lps iv = wordsToVec (List.replicate 8 0x23c5ee40b07b5f15) := by decide +kernel

/-! ### The host (44_host_boundary.md, 30_encoding.md R80) -/

/-- R201: "é" is `0xC3 0xA9`. -/
theorem test_normalize_raw : normalizeRaw "é".toList = { value := 0xC3A9, length := 16 } := by
  decide +kernel

theorem test_normalize_hex : (normalizeHex "ABC".toList).toOption = some { value := 0xabc, length := 12 }
    ∧ normalizeHex "0x1".toList = .error .invalidHexInput := ⟨by decide +kernel, rfl⟩

theorem test_parse_last :
    (parseLine "LAST  64, 0xFf ; the tail".toList).toOption = some (some (.last 64 0xff)) := by
  decide +kernel

/-! ### Witnesses: for every obligation with hypotheses, operands that meet all of them together -/

/-- Tables that pass the checks and are not this core's: the initial value of all zeros. -/
theorem test_witness_build : ∃ b : Build, b.tables = { tables with iv := 0 } :=
  ⟨{ tables := { tables with iv := 0 }, checked := by decide +kernel }, rfl⟩

theorem test_witness_positions : 0 < 64 ∧ 63 < 64 ∧ 0 < 8 ∧ 7 < 8 ∧ 511 < 512 := by decide

theorem test_witness_integer_conversions : 511 < 2 ^ 9 ∧ 0 < 2 ^ 0 ∧ 255 < 2 ^ 8 := by decide

theorem test_witness_key_schedule :
    (1 ≤ 1 ∧ 1 ≤ 12) ∧ (1 ≤ 12 ∧ 12 ≤ 12)
      ∧ lps (xor512 1 0) = lps (xor512 0 1) := by
  exact ⟨by decide, by decide, congrArg lps (by decide +kernel)⟩

theorem test_witness_encrypt : (List.replicate 13 zero512).length = 13 := by decide

theorem test_witness_interleaved : 0 ≤ 12 ∧ 12 ≤ 12 := by decide

theorem test_witness_illegal_word : AtRest State.reset ∧ AtRest doneState ∧ legal 0x4000 = false
    ∧ legal 0x0200 = false ∧ legal 0x2001 = false :=
  ⟨atRest_reset, atRest_doneState, by decide, by decide, by decide⟩

theorem test_witness_encode_decode : decode 0x31ff = .ok (.last 511) ∧ decode 0x3000 = .ok (.last 0) :=
  ⟨rfl, rfl⟩

theorem test_witness_step_runs :
    let s := executing 0x31ff .finalizing 0
    s.resetSeen = true ∧ s.busy = true ∧ s.wait = 0 ∧ s.ports.rst = false
      ∧ decode s.cmdLatch = .ok (.last 511) := ⟨rfl, rfl, rfl, rfl, rfl⟩

theorem test_witness_step_runs_illegal :
    let s := executing 0x3200 .done 0
    s.resetSeen = true ∧ s.busy = true ∧ s.wait = 0 ∧ s.ports.rst = false
      ∧ decode s.cmdLatch = .error .reservedField := ⟨rfl, rfl, rfl, rfl, rfl⟩

theorem test_witness_step_runs_fetched : State.reset.resetSeen = true := rfl

theorem test_witness_reset :
    (driven State.reset .reset).ports.rst = true
      ∧ (driven (executing 0x3000 .finalizing 5) .reset).ports.rst = true
      ∧ (State.powerOn [.reset]).ports.rst = true := ⟨rfl, rfl, rfl⟩

/-- The drive after the reset edge offers a command. -/
theorem test_witness_state_after_reset :
    let s := State.powerOn [.reset, .offer 0x1000 0]
    s.ports.rst = true
      ∧ ({ State.reset with inputs := s.inputs.tail } : State).ports.rst = false
      ∧ ({ State.reset with inputs := s.inputs.tail } : State).ports.cmdValid = true := ⟨rfl, rfl, rfl⟩

theorem test_witness_before_reset :
    (State.powerOn [.offer 0 0]).resetSeen = false ∧ (State.powerOn [.offer 0 0]).ports.rst = false
      ∧ (State.powerOn [.offer 0 0]).ports.cmdValid = true
      ∧ (State.powerOn []).resetSeen = false ∧ (State.powerOn []).ports.rst = false
      ∧ (State.powerOn []).ports.cmdValid = false := ⟨rfl, rfl, rfl, rfl, rfl, rfl⟩

theorem test_witness_acceptance :
    let s := driven State.reset (.offer 0x2000 7)
    s.resetSeen = true ∧ s.ports.rst = false ∧ s.ports.cmdValid = true ∧ cmdReady s = true :=
  ⟨rfl, rfl, rfl, rfl⟩

theorem test_witness_nothing_offered :
    State.reset.resetSeen = true ∧ State.reset.ports.rst = false
      ∧ State.reset.ports.cmdValid = false ∧ cmdReady State.reset = true := ⟨rfl, rfl, rfl, rfl⟩

theorem test_witness_offered_while_busy :
    let s := driven (executing 0x2000 .accumulating 1) (.offer 0x1000 0)
    s.resetSeen = true ∧ s.ports.rst = false ∧ cmdReady s = false ∧ Ports.idle.rst = false :=
  ⟨rfl, rfl, rfl, rfl⟩

theorem test_witness_outputs_accepted :
    AtRest (driven State.reset (.offer 0x3000 0))
      ∧ (driven State.reset (.offer 0x3000 0)).inputs = Ports.offer 0x3000 0 :: [] :=
  ⟨atRest_driven_offer, rfl⟩

theorem test_witness_outputs_waiting :
    let s := executing 0x3000 .finalizing 1
    s.resetSeen = true ∧ s.busy = true ∧ s.wait ≠ 0 ∧ s.ports.rst = false ∧ s.phase = .finalizing :=
  ⟨rfl, rfl, by decide, rfl, rfl⟩

/-- For every latency: the drive of the edges a BLOCK executes. -/
theorem test_witness_latency :
    AtRest State.reset
      ∧ NoReset (List.replicate (acceptedWait 0x2000 State.reset.phase + 1) Ports.idle)
      ∧ (List.replicate (acceptedWait 0x2000 State.reset.phase + 1) Ports.idle).length
        = acceptedWait 0x2000 State.reset.phase + 1
      ∧ 0 ≤ acceptedWait 0x2000 State.reset.phase
      ∧ acceptedWait 0x2000 State.reset.phase ≤ acceptedWait 0x2000 State.reset.phase := by
  refine ⟨atRest_reset, fun p hp => ?_, List.length_replicate, Nat.zero_le _, Nat.le_refl _⟩
  rw [List.eq_of_mem_replicate hp]
  rfl

/-- A reset at the first edge of a LAST's execution, and at its completing edge. -/
theorem test_witness_abandoned :
    AtRest State.reset ∧ Ports.reset.rst = true
      ∧ (NoReset [] ∧ ([] : List Ports).length ≤ acceptedWait 0x3000 State.reset.phase)
      ∧ NoReset (List.replicate (acceptedWait 0x3000 State.reset.phase) Ports.idle)
      ∧ (List.replicate (acceptedWait 0x3000 State.reset.phase) Ports.idle).length
        ≤ acceptedWait 0x3000 State.reset.phase := by
  refine ⟨atRest_reset, rfl, ⟨fun p hp => ?_, Nat.zero_le _⟩, fun p hp => ?_, ?_⟩
  · cases hp
  · rw [List.eq_of_mem_replicate hp]
    rfl
  · rw [List.length_replicate]

theorem test_witness_at_rest : AtRest State.reset ∧ AtRest doneState ∧ AtRest doneWithError :=
  ⟨atRest_reset, atRest_doneState, atRest_doneWithError⟩

/-- A host that waits one edge, offers an INIT, drives another offer while it executes, and then offers an
illegal word. -/
theorem test_witness_offers_in_order :
    OffersInOrder [(0x1000, 0), (0x4000, 5)] .done
      ([Ports.idle] ++ Ports.offer 0x1000 0
        :: (List.replicate (acceptedWait 0x1000 .done + 1) (Ports.offer 0x2000 7)
          ++ ([] ++ Ports.offer 0x4000 5
            :: (List.replicate (acceptedWait 0x4000 .accumulating + 1) Ports.idle ++ [])))) := by
  refine ⟨[.idle], _, _, rfl, ?_, ?_, List.length_replicate, [], _, [], rfl, ?_, ?_,
    List.length_replicate, rfl⟩
  · intro q hq
    rw [List.mem_singleton.mp hq]
    exact ⟨rfl, rfl⟩
  · intro q hq
    rw [List.eq_of_mem_replicate hq]
    rfl
  · intro q hq
    cases hq
  · intro q hq
    rw [List.eq_of_mem_replicate hq]
    rfl

/-- The premises of the statements over the invariant: an edge that accepts, and one that completes an
INIT, whose writes change `H` and clear ERR. -/
theorem test_witness_invariant_accept :
    CoreInv (driven State.reset (.offer 0x3000 0))
      ∧ step (driven State.reset (.offer 0x3000 0))
        = .next ((driven State.reset (.offer 0x3000 0)).popInput.accept 0x3000 0) :=
  ⟨⟨rfl, by decide, by decide, by decide⟩, clockEdge_eq rfl⟩

theorem test_witness_invariant_complete :
    let s : State := { doneWithError with busy := true, cmdLatch := 0x1000 }
    CoreInv s ∧ step s = .next (s.popInput.startMessage tables).finish
      ∧ (s.popInput.startMessage tables).finish.h ≠ s.h
      ∧ s.err = true ∧ (s.popInput.startMessage tables).finish.err = false :=
  ⟨⟨rfl, by decide, by decide, by decide⟩, clockEdge_eq rfl, by decide +kernel, rfl, rfl⟩

/-- ERR set in DONE by a completing BLOCK, and set by a completing illegal word (R34). -/
theorem test_witness_flag_sequence :
    let s : State := { doneState with busy := true, cmdLatch := 0x2000 }
    CoreInv s ∧ step s = .next (s.popInput.raiseError .sequence).finish
      ∧ s.err = false ∧ (s.popInput.raiseError .sequence).finish.err = true :=
  ⟨⟨rfl, by decide, by decide, by decide⟩, clockEdge_eq rfl, rfl, rfl⟩

theorem test_witness_flag_illegal :
    let s : State := { doneState with busy := true, cmdLatch := 0x4000 }
    CoreInv s ∧ step s = .next (s.popInput.raiseError .illegalCmd).finish
      ∧ s.err = false ∧ (s.popInput.raiseError .illegalCmd).finish.err = true :=
  ⟨⟨rfl, by decide, by decide, by decide⟩, clockEdge_eq rfl, rfl, rfl⟩

theorem test_witness_invariant_finalizing :
    CoreInv (executing 0x3000 .finalizing 0) ∧ (executing 0x3000 .finalizing 0).phase = .finalizing :=
  ⟨inv_executing_last, rfl⟩

theorem test_witness_nop_illegal : AtRest State.reset ∧ opField 0x0001 = 0#4 ∧ (0x0001 : CmdWord) ≠ 0x0000 :=
  ⟨atRest_reset, rfl, by decide⟩

theorem test_witness_block :
    (executing 0x2000 .accumulating 0).resetSeen = true
      ∧ (executing 0x2000 .accumulating 0).phase = .accumulating
      ∧ (executing 0x2000 .done 0).resetSeen = true ∧ (executing 0x2000 .done 0).phase = .done :=
  ⟨rfl, rfl, rfl, rfl⟩

theorem test_witness_block_illegal :
    AtRest State.reset ∧ opField 0x2001 = 2#4 ∧ lenField 0x2001 ≠ 0#9
      ∧ opField 0x2800 = 2#4 ∧ rsvField 0x2800 ≠ 0#3 :=
  ⟨atRest_reset, rfl, by decide, rfl, by decide⟩

theorem test_witness_last :
    (executing 0x31ff .finalizing 0).resetSeen = true
      ∧ (executing 0x31ff .finalizing 0).phase = .finalizing
      ∧ (executing 0x31ff .finalizing 0).err = false
      ∧ State.reset.phase = .accumulating ∧ doneState.resetSeen = true ∧ doneState.phase = .done :=
  ⟨rfl, rfl, rfl, rfl, rfl, rfl⟩

theorem test_witness_not_done : State.reset.resetSeen = true ∧ State.reset.phase ≠ .done :=
  ⟨rfl, by decide⟩

theorem test_witness_frames :
    exec .nop State.reset = .next State.reset.finish
      ∧ exec .init doneState = .next (doneState.startMessage tables).finish
      ∧ (exec .block State.reset = .next (State.reset.absorb tables 0).finish ∧ State.reset.phase ≠ .done)
      ∧ exec (.last 511) State.reset = .next (State.reset.finalizeMessage tables 511 0).finish
      ∧ exec .block doneState = .next (doneState.raiseError .sequence).finish
      ∧ doneState.phase = .done ∧ Instr.block ≠ .init := by
  refine ⟨execNop_eq rfl, execInit_eq rfl, ⟨?_, by decide⟩, ?_, ?_, rfl, by decide⟩
  · rw [show exec .block State.reset = _ from execBlock_eq rfl, unlessDone_else (by decide)]
    rfl
  · rw [show exec (.last 511) State.reset = _ from execLast_eq rfl 511, unlessDone_else (by decide)]
    rfl
  · rw [show exec .block doneState = _ from execBlock_eq rfl, unlessDone_done rfl]

theorem test_witness_sequence : AtRest doneState ∧ doneState.phase = .done
    ∧ (Instr.last 0 = .block ∨ ∃ len, Instr.last 0 = .last len) :=
  ⟨atRest_doneState, rfl, .inr ⟨0, rfl⟩⟩

theorem test_witness_illegal_causes :
    4 ≤ (opField 0x4000).toNat ∧ 4 ≤ (opField 0xf000).toNat ∧ rsvField 0x3200 ≠ 0#3
      ∧ (lenField 0x1001 ≠ 0#9 ∧ opField 0x1001 ≠ 3#4) := by decide

theorem test_witness_first_error : State.reset.err = false ∧ doneWithError.err = true := ⟨rfl, rfl⟩

theorem test_witness_priority : AtRest doneState ∧ doneState.phase = .done ∧ doneState.err = false
    ∧ 2 ≤ (opField 0x2001).toNat ∧ 2 ≤ (opField 0x3000).toNat :=
  ⟨atRest_doneState, rfl, rfl, by decide, by decide⟩

theorem test_witness_digest_output : doneState.phase = .done ∧ State.reset.phase ≠ .done :=
  ⟨rfl, by decide⟩

/-- `din` words that differ above the tail, for the shortest tail and for a tail of three bits. -/
theorem test_witness_tail :
    (∀ k < (0 : BitVec 9).toNat, (0 : Word512).getLsbD k = (BitVec.allOnes 512 : Word512).getLsbD k)
      ∧ ∀ k < (3 : BitVec 9).toNat, (0xf : Word512).getLsbD k = (0x7 : Word512).getLsbD k := by
  decide +kernel

theorem test_witness_padded : (510 : BitVec 9).toNat < 511 ∧ 511 ≤ 511 ∧ 0 < (1 : BitVec 9).toNat := by
  decide +kernel

theorem test_witness_no_init :
    AtRest doneWithError ∧ doneWithError.phase = .done ∧ doneWithError.err = true
      ∧ ∀ cd ∈ ([(encode .nop, 0), (encode (.last 511), 1), (0x4000, 2)] : List (CmdWord × Word512)),
          cd.1 ≠ encode .init :=
  ⟨atRest_doneWithError, rfl, rfl, by simp [encode]⟩

theorem test_witness_message :
    ({ value := 2 ^ 513 - 1, length := 513 } : Message).value < 2 ^ 513 ∧ 0 < 2 ^ 0 := by decide +kernel

/-- R250: a reset at the edge after the acceptance of a LAST, and none after it. -/
theorem test_witness_observation_abandoned :
    AtRest State.reset ∧ NoReset [] ∧ ([] : List Ports).length ≤ acceptedWait 0x3000 State.reset.phase
      ∧ Ports.reset.rst = true ∧ (([] : List Ports).headD .idle).rst = false ∧ 0 + 2 ≤ 2
      ∧ observation 2 (State.powerOn [.reset]) = none :=
  ⟨atRest_reset, (fun _ hp => by cases hp), Nat.zero_le _, rfl, rfl, Nat.le_refl _, rfl⟩

/-- A message of three bits after which no reset comes; a run with no LAST; a LAST and then resets. -/
theorem test_witness_observation :
    (AtRest doneState ∧ State.reset.ports.rst = false)
      ∧ (∀ q ∈ (driven State.reset (.offer 0x2000 7)).inputs,
          q.rst = true ∨ q.cmdValid = false ∨ isLastWord q.cmd = false)
      ∧ (∀ q ∈ [Ports.reset, Ports.reset], q.rst = true)
      ∧ 2 ≤ [Ports.reset, Ports.reset].length := by
  refine ⟨⟨atRest_doneState, rfl⟩, ?_, ?_, Nat.le_refl _⟩
  · intro q hq
    rw [List.mem_singleton.mp hq]
    exact .inr (.inr rfl)
  · simp [Ports.reset]

theorem test_witness_hash : AtRest State.reset ∧ normalizeHex "0".toList = .ok { value := 0, length := 4 } :=
  ⟨atRest_reset, rfl⟩

theorem test_witness_hash_ok : ∃ out, coreHash .hex [] doneState = .ok out := by
  have h : (coreHash .hex [] doneState).toOption.isSome = true := by decide +kernel
  cases hc : coreHash .hex [] doneState with
  | ok out => exact ⟨out, rfl⟩
  | error e =>
    rw [hc] at h
    cases h

theorem test_witness_hex :
    (∀ ch ∈ "09afAF".toList, ch ∈ "0123456789abcdefABCDEF".toList)
      ∧ (∃ ch ∈ "0g".toList, ch ∉ "0123456789abcdefABCDEF".toList)
      ∧ normalizeHex "0g".toList = .error .invalidHexInput
      ∧ hexDigit? 'f' = some 15 ∧ hexDigit? '0' = some 0 :=
  ⟨by simp, by simp, rfl, by decide, by decide⟩

theorem test_witness_assembler :
    (511 ≤ 511 ∧ 2 ^ 511 - 1 < 2 ^ 511) ∧ 511 < 512 ∧ 2 ^ 3 ≤ 8 ∧ 0 < 2 ^ 0 := by decide +kernel

theorem test_witness_cores :
    stepCores [1, 0, 2] [State.reset, doneState] = .next [State.reset, doneState]
      ∧ [State.reset, doneState][1]? = some doneState := by
  constructor
  · rfl
  · rfl

end Sys2Proof.Tests
end

section
/-!
The digest output of 10_state.md R29: what the digest reads in DONE and outside DONE.
-/
namespace Sys2Proof.Machine

theorem digest_of_done {s : State} (h : s.phase = .done) :
    digest s = s.h.extractLsb' 256 256 := if_pos h

theorem digest_of_ne_done {s : State} (h : s.phase ≠ .done) : digest s = 0 := if_neg h

theorem digest_getLsbD_of_done {s : State} (h : s.phase = .done) {k : Nat} (hk : k < 256) :
    (digest s).getLsbD k = s.h.getLsbD (256 + k) := by
  rw [digest_of_done h, BitVec.getLsbD_extractLsb']
  simp only [hk, decide_true, Bool.true_and]

@[simp] theorem digest_reset : digest State.reset = 0 :=
  digest_of_ne_done (by simp)

/-- Settles O47: the digest is the upper half of `H` in DONE and 0 elsewhere, and reset leaves
PHASE at ACCUMULATING (R35). -/
theorem digestOutput : Obligations.DigestOutput :=
  ⟨fun _ h _ hk => digest_getLsbD_of_done h hk, fun _ h => digest_of_ne_done h, digest_reset⟩

end Sys2Proof.Machine
end

section
/-!
Command words and commands (30_encoding.md R70 to R77): a word is its three fields, decoding says which
fields make which command, and so decoding, encoding and legality are three views of one relation.
-/
namespace Sys2Proof

/-! ### A word is its three fields (R70) -/

theorem opField_toNat (c : CmdWord) : (opField c).toNat = c.toNat / 4096 := by
  have hc := c.isLt
  rw [opField, BitVec.extractLsb'_toNat, Nat.shiftRight_eq_div_pow]
  omega

theorem rsvField_toNat (c : CmdWord) : (rsvField c).toNat = c.toNat / 512 % 8 := by
  rw [rsvField, BitVec.extractLsb'_toNat, Nat.shiftRight_eq_div_pow]

theorem lenField_toNat (c : CmdWord) : (lenField c).toNat = c.toNat % 512 := by
  rw [lenField, BitVec.extractLsb'_toNat, Nat.shiftRight_zero]

theorem eq_of_fields {c c' : CmdWord} (hop : opField c = opField c') (hrsv : rsvField c = rsvField c')
    (hlen : lenField c = lenField c') : c = c' := by
  apply_fun BitVec.toNat at hop hrsv hlen
  rw [opField_toNat, opField_toNat] at hop
  rw [rsvField_toNat, rsvField_toNat] at hrsv
  rw [lenField_toNat, lenField_toNat] at hlen
  exact BitVec.eq_of_toNat_eq (by omega)

/-! ### The fields of a command's word (R73, R74) -/

/-- The opcode of a command (R73). -/
def opcode : Instr → BitVec 4
  | .nop => 0
  | .init => 1
  | .block => 2
  | .last _ => 3

/-- What a command has in its LEN field (R74). -/
def lenOperand : Instr → BitVec 9
  | .last len => len
  | _ => 0

@[simp] theorem opField_encode (i : Instr) : opField (encode i) = opcode i := by
  cases i with
  | last len => exact Laws.LegalWord.op_last len
  | _ => rfl

@[simp] theorem rsvField_encode (i : Instr) : rsvField (encode i) = 0#3 := by
  cases i with
  | last len => exact Laws.LegalWord.rsv_last len
  | _ => rfl

@[simp] theorem lenField_encode (i : Instr) : lenField (encode i) = lenOperand i := by
  cases i with
  | last len => exact Laws.LegalWord.len_last len
  | _ => rfl

theorem encode_eq_iff {i : Instr} {c : CmdWord} :
    encode i = c ↔ rsvField c = 0#3 ∧ opField c = opcode i ∧ lenField c = lenOperand i := by
  constructor
  · rintro rfl
    simp
  · rintro ⟨hrsv, hop, hlen⟩
    exact eq_of_fields (by simp [hop]) (by simp [hrsv]) (by simp [hlen])

/-! ### Decoding -/

theorem withoutLen_eq_ok_iff {i j : Instr} {c : CmdWord} :
    withoutLen j c = .ok i ↔ j = i ∧ lenField c = 0#9 := by
  unfold withoutLen
  split <;> simp [*]

theorem decodeOp_eq_ok_iff {c : CmdWord} {i : Instr} :
    decodeOp c = .ok i ↔ opField c = opcode i ∧ lenField c = lenOperand i := by
  unfold decodeOp
  rw [← BitVec.toNat_inj]
  split <;> rename_i hop
  case h_5 => -- OP in 0x4..0xF is the opcode of no command
    have hreserved : (opField c).toNat ≠ (opcode i).toNat := by
      cases i <;> assumption
    simp [hreserved]
  all_goals
    rw [hop]
    cases i <;> simp [withoutLen_eq_ok_iff, opcode, lenOperand]

theorem decode_eq_ok_iff_encode_eq {c : CmdWord} {i : Instr} : decode c = .ok i ↔ encode i = c := by
  rw [encode_eq_iff, ← decodeOp_eq_ok_iff, decode]
  split <;> simp [*]

theorem decode_encode (i : Instr) : decode (encode i) = .ok i := decode_eq_ok_iff_encode_eq.mpr rfl

/-! ### Legality (R76) -/

theorem toNat_le_three_iff (op : BitVec 4) :
    op.toNat ≤ 3 ↔ op = 0#4 ∨ op = 1#4 ∨ op = 2#4 ∨ op = 3#4 := by
  bv_omega

theorem legal_iff_fields (c : CmdWord) :
    legal c = true ↔
      (opField c).toNat ≤ 3 ∧ rsvField c = 0#3 ∧ (opField c = 3#4 ∨ lenField c = 0#9) := by
  simp only [legal, Bool.and_eq_true, Bool.or_eq_true, beq_iff_eq, or_assoc, and_assoc,
    toNat_le_three_iff]

theorem legal_encode (i : Instr) : legal (encode i) = true := by
  cases i with
  | nop => exact Laws.LegalWord.nop.1
  | init => exact Laws.LegalWord.init.1
  | block => exact Laws.LegalWord.block.1
  | last len => exact (Laws.LegalWord.last len).1

theorem exists_encode_eq_iff_legal (c : CmdWord) : (∃ i, encode i = c) ↔ legal c = true := by
  constructor
  · rintro ⟨i, rfl⟩
    exact legal_encode i
  · rw [legal_iff_fields, toNat_le_three_iff]
    rintro ⟨hop, hrsv, hlen⟩
    simp only [encode_eq_iff, hrsv, true_and]
    rcases hop with h | h | h | h
    · exact ⟨.nop, h, by simpa [h, lenOperand] using hlen⟩
    · exact ⟨.init, h, by simpa [h, lenOperand] using hlen⟩
    · exact ⟨.block, h, by simpa [h, lenOperand] using hlen⟩
    · exact ⟨.last (lenField c), h, rfl⟩

theorem exists_decode_eq_ok_iff_legal (c : CmdWord) : (∃ i, decode c = .ok i) ↔ legal c = true := by
  simp only [decode_eq_ok_iff_encode_eq, exists_encode_eq_iff_legal]

theorem exists_decode_eq_error {c : CmdWord} (hc : legal c = false) : ∃ e, decode c = .error e := by
  cases hd : decode c with
  | error e => exact ⟨e, rfl⟩
  | ok i => simp [(exists_decode_eq_ok_iff_legal c).mp ⟨i, hd⟩] at hc

/-! ### The list of legal words (R77) -/

theorem encode_last_eq_ofNat (len : BitVec 9) :
    encode (.last len) = BitVec.ofNat 16 (0x3000 + len.toNat) := by
  have hor : 0x3000 + len.toNat = 0x3000 ||| len.toNat :=
    Nat.two_pow_add_eq_or_of_lt (i := 9) len.isLt 24
  rw [hor, BitVec.ofNat_or, BitVec.ofNat_toNat]
  rfl

/-- The words of LAST. -/
def lastWords : List CmdWord := (List.range 512).map fun len => BitVec.ofNat 16 (0x3000 + len)

theorem mem_lastWords (c : CmdWord) : c ∈ lastWords ↔ ∃ len, encode (.last len) = c := by
  simp only [lastWords, List.mem_map, List.mem_range, encode_last_eq_ofNat]
  constructor
  · rintro ⟨len, hlt, rfl⟩
    exact ⟨BitVec.ofNat 9 len, by rw [BitVec.toNat_ofNat, Nat.mod_eq_of_lt hlt]⟩
  · rintro ⟨len, rfl⟩
    exact ⟨len.toNat, len.isLt, rfl⟩

theorem lastWords_nodup : lastWords.Nodup := by
  refine List.Nodup.map_on (fun a ha b hb hab => ?_) List.nodup_range
  rw [List.mem_range] at ha hb
  apply_fun BitVec.toNat at hab
  simp only [BitVec.toNat_ofNat] at hab
  omega

/-- Words with different opcodes differ, so no word of LAST is the word of another command. -/
theorem not_mem_lastWords {i : Instr} (hi : opcode i ≠ 3) : encode i ∉ lastWords := by
  rw [mem_lastWords]
  rintro ⟨len, h⟩
  exact hi (by rw [← opField_encode, ← h, opField_encode]; rfl)

theorem legal_iff_mem (c : CmdWord) :
    legal c = true ↔ c ∈ [encode .nop, encode .init, encode .block] ++ lastWords := by
  rw [← exists_encode_eq_iff_legal, List.mem_append, mem_lastWords]
  constructor
  · rintro ⟨i, rfl⟩
    cases i with
    | last len => exact .inr ⟨len, rfl⟩
    | _ => exact .inl (by simp)
  · rintro (h | ⟨len, h⟩)
    · simp only [List.mem_cons, List.not_mem_nil, or_false] at h
      rcases h with rfl | rfl | rfl
      exacts [⟨_, rfl⟩, ⟨_, rfl⟩, ⟨_, rfl⟩]
    · exact ⟨_, h⟩

theorem legalWords_nodup : ([encode .nop, encode .init, encode .block] ++ lastWords).Nodup := by
  refine List.Nodup.append (by decide) lastWords_nodup ?_
  simp only [List.disjoint_cons_left, List.disjoint_nil_left, and_true]
  exact ⟨not_mem_lastWords (by decide), not_mem_lastWords (by decide), not_mem_lastWords (by decide)⟩

/-- Settles O16: a legal word is the word of one command, and the list goes through the commands. -/
theorem legalWordsAreExactlyThese : Obligations.LegalWordsAreExactlyThese :=
  ⟨legal_iff_mem, legalWords_nodup, by simp⟩

end Sys2Proof
end

section
/-!
The completion of an illegal word (30_encoding.md R76, 60_exceptions.md R223): ILLEGAL_CMD is recorded in
the architected state, and nothing else.
-/
namespace Sys2Proof.Machine

theorem acceptedPhase_illegal {c : CmdWord} (hc : legal c = false) (p : Phase) :
    acceptedPhase c p = p := by
  obtain ⟨e, he⟩ := exists_decode_eq_error hc
  simp only [acceptedPhase, he]

theorem completed_illegal {s : State} (hc : legal s.cmdLatch = false) :
    completed s = s.raiseError .illegalCmd := by
  obtain ⟨e, he⟩ := exists_decode_eq_error hc
  simp only [completed, he]

@[simp] theorem State.raiseError_architected (s : State) (code : ErrCode) :
    (s.raiseError code).architected = s.architected.withError code := by cases s; rfl

theorem State.accept_architected_illegal {c : CmdWord} (hc : legal c = false) (d : Word512) (s : State) :
    (s.accept c d).architected = s.architected := by
  simp [State.architected, acceptedPhase_illegal hc]

theorem command_illegal {c : CmdWord} (hc : legal c = false) {s : State} (hs : s.resetSeen = true)
    (d : Word512) :
    s.command c d = .next ({ s.accept c d with wait := 0 }.raiseError .illegalCmd).finish := by
  have hlatch : legal ({ s.accept c d with wait := 0 } : State).cmdLatch = false := by simpa using hc
  rw [command_eq hs, completed_illegal hlatch]

/-- Settles O17: the fields say which words decode, and an illegal word completes as an error. -/
theorem decodingIsTotalAndLegalIsTheThreeConditions :
    Obligations.DecodingIsTotalAndLegalIsTheThreeConditions := by
  refine ⟨legal_iff_fields, exists_decode_eq_ok_iff_legal, fun c d s hs hc => ?_⟩
  refine ⟨_, command_illegal hc hs.reset d, State.finish_busy _, ?_⟩
  rw [State.finish_architected, State.raiseError_architected]
  exact congrArg (Architected.withError · .illegalCmd) (State.accept_architected_illegal hc d s)

end Sys2Proof.Machine
end

section
/-!
Texts of commands (30_encoding.md R80, R82): a text whose every line is one command assembles as the
sequence of those commands does.
-/
namespace Sys2Proof.Machine

/-- The text of a line is one command, offered as the word and `din` of `cmd`. -/
def AssemblesTo (text : List Char) (cmd : CmdWord × Word512) : Prop :=
  ∃ l, parseLine text = .ok (some l) ∧ assemble l = .ok [cmd]

theorem assembleText_of_assemblesTo {texts : List (List Char)} {cmds : List (CmdWord × Word512)}
    (h : List.Forall₂ AssemblesTo texts cmds) : assembleText texts = .ok cmds := by
  induction h with
  | nil => rfl
  | cons hline _ ih =>
    obtain ⟨l, hparse, hl⟩ := hline
    simp [assembleText, hparse, hl, ih]

theorem assemble_last {len v : Nat} (hlen : len ≤ 511) (hv : v < 2 ^ len) :
    assemble (.last len v) = .ok [(encode (.last (intToBits len 9)), intToBits v 512)] := by
  rw [assemble, if_neg (by omega), if_neg (by omega)]

theorem assemblesTo_last {text : List Char} {len v : Nat}
    (hparse : parseLine text = .ok (some (.last len v))) (hlen : len ≤ 511) (hv : v < 2 ^ len) :
    AssemblesTo text (encode (.last (intToBits len 9)), intToBits v 512) :=
  ⟨.last len v, hparse, assemble_last hlen hv⟩

theorem assemblesTo_last_one {text : List Char} {len : Nat}
    (hparse : parseLine text = .ok (some (.last len 1))) (hlen : len ≤ 511) (hne : len ≠ 0) :
    AssemblesTo text (encode (.last (intToBits len 9)), intToBits 1 512) :=
  assemblesTo_last hparse hlen (Nat.one_lt_two_pow hne)

/-- The commands of the texts of R82. -/
def exampleCommands : List (CmdWord × Word512) :=
  [(encode .nop, 0), (encode .init, 0), (encode .block, iv), (encode (.last 0), 0),
    (encode (.last 64), 1), (encode (.last 504), 1), (encode (.last 511), 1), (encode (.last 1), 1)]

/-- Settles O19: each text parses to its line, whose word is the encoding of its command. Of the parses,
only that of the 128 digits of the BLOCK line needs the kernel's evaluation. -/
theorem exampleWordsDecode : Obligations.ExampleWordsDecode := by
  refine ⟨⟨exampleCommands, assembleText_of_assemblesTo ?_, rfl⟩, decode_encode .nop,
    decode_encode .init, decode_encode .block, decode_encode (.last 0), decode_encode (.last 64),
    decode_encode (.last 504), decode_encode (.last 511), decode_encode (.last 1)⟩
  exact .cons ⟨.nop, rfl, rfl⟩ <| .cons ⟨.init, rfl, rfl⟩ <|
    .cons ⟨.block iv, by decide +kernel, rfl⟩ <|
    .cons (assemblesTo_last (len := 0) rfl (by omega) Nat.one_pos) <|
    .cons (assemblesTo_last_one (len := 64) rfl (by omega) (by omega)) <|
    .cons (assemblesTo_last_one (len := 504) rfl (by omega) (by omega)) <|
    .cons (assemblesTo_last_one (len := 511) rfl (by omega) (by omega)) <|
    .cons (assemblesTo_last_one (len := 1) rfl (by omega) (by omega)) .nil

end Sys2Proof.Machine
end

section
/-!
Tables of `2 ^ w` entries of `w` bits (40_constants.md R100, R101): when every value occurs in such a table,
it is a bijection, and the numbers below `2 ^ w` are permuted.
-/
namespace Sys2Proof

/-- A table read as a function of its index. -/
def entryAt {w : Nat} (l : List (BitVec w)) (i : BitVec w) : BitVec w := l.getD i.toNat 0

theorem Tables.sboxAt_eq_entryAt (t : Tables) : t.sboxAt = entryAt t.sbox := rfl

theorem mem_iff_exists_entryAt {w : Nat} {l : List (BitVec w)} (hlen : l.length = 2 ^ w) (x : BitVec w) :
    x ∈ l ↔ ∃ i, entryAt l i = x := by
  rw [List.mem_iff_getElem]
  constructor
  · rintro ⟨k, hk, rfl⟩
    exact ⟨BitVec.ofNatLT k (hlen ▸ hk), List.getD_eq_getElem _ _ hk⟩
  · rintro ⟨i, rfl⟩
    have hi : i.toNat < l.length := hlen ▸ i.isLt
    exact ⟨i.toNat, hi, (List.getD_eq_getElem _ _ hi).symm⟩

theorem forall_lt_two_pow_iff {w : Nat} {p : Nat → Prop} :
    (∀ x < 2 ^ w, p x) ↔ ∀ x : BitVec w, p x.toNat :=
  ⟨fun h x => h x.toNat x.isLt, fun h x hx => h (BitVec.ofNatLT x hx)⟩

theorem existsUnique_lt_two_pow_iff {w : Nat} {p : Nat → Prop} :
    (∃! x, x < 2 ^ w ∧ p x) ↔ ∃! x : BitVec w, p x.toNat := by
  constructor
  · rintro ⟨x, ⟨hx, hp⟩, huniq⟩
    exact ⟨BitVec.ofNatLT x hx, hp, fun y hy => BitVec.eq_of_toNat_eq (huniq _ ⟨y.isLt, hy⟩)⟩
  · rintro ⟨x, hp, huniq⟩
    exact ⟨x.toNat, ⟨x.isLt, hp⟩, fun y ⟨hy, hpy⟩ =>
      congrArg BitVec.toNat (huniq (BitVec.ofNatLT y hy) hpy)⟩

/-- The check of R105: among finitely many entries in which every value occurs, each occurs once. -/
theorem all_contains_iff_bijective {w : Nat} {l : List (BitVec w)} (hlen : l.length = 2 ^ w) :
    ((List.range (2 ^ w)).all fun x => l.contains (BitVec.ofNat w x)) = true ↔
      Function.Bijective (entryAt l) := by
  simp only [List.all_eq_true, List.mem_range, List.contains_iff_mem, forall_lt_two_pow_iff,
    BitVec.ofNat_toNat, BitVec.setWidth_eq, mem_iff_exists_entryAt hlen]
  exact Finite.surjective_iff_bijective

/-- A table is a bijection exactly if it permutes the numbers below `2 ^ w`. -/
theorem bijective_entryAt_iff_permutes {w : Nat} (l : List (BitVec w)) :
    Function.Bijective (entryAt l) ↔ ∀ x < 2 ^ w, ∃! i, i < 2 ^ w ∧ (l.getD i 0).toNat = x := by
  simp only [Function.bijective_iff_existsUnique, forall_lt_two_pow_iff, existsUnique_lt_two_pow_iff,
    BitVec.toNat_inj]
  rfl

end Sys2Proof
end

section
/-!
The build checks of the tables (40_constants.md R105): what each of them says, and that a core is built
exactly of the tables that pass them.
-/
namespace Sys2Proof

theorem Tables.sboxOk_iff (t : Tables) :
    t.sboxOk = true ↔ t.sbox.length = 256 ∧ Function.Bijective t.sboxAt := by
  rw [sboxOk, Bool.and_eq_true, beq_iff_eq, sboxAt_eq_entryAt]
  exact and_congr_right fun hlen => all_contains_iff_bijective (w := 8) hlen

theorem Tables.tauOk_iff (t : Tables) :
    t.tauOk = true ↔ t.tau.length = 64 ∧ ∀ x < 64, ∃! i, i < 64 ∧ t.tauAt i = x := by
  rw [tauOk, Bool.and_eq_true, beq_iff_eq]
  exact and_congr_right fun hlen =>
    (all_contains_iff_bijective (w := 6) hlen).trans (bijective_entryAt_iff_permutes t.tau)

theorem Tables.wellFormed_iff (t : Tables) :
    t.wellFormed = true ↔
      (t.sbox.length = 256 ∧ Function.Bijective t.sboxAt)
        ∧ (t.tau.length = 64 ∧ ∀ x < 64, ∃! i, i < 64 ∧ t.tauAt i = x)
        ∧ t.rows.length = 64 ∧ t.roundConstants.length = 12 := by
  simp only [wellFormed, rowsOk, roundConstantsOk, Bool.and_eq_true, beq_iff_eq, sboxOk_iff, tauOk_iff,
    and_assoc]

end Sys2Proof

namespace Sys2Proof.Machine

theorem buildCore_eq_none {t : Tables} (h : t.wellFormed = false) : buildCore t = none :=
  dif_neg (by simp [h])

theorem buildCore_tables (b : Build) : buildCore b.tables = some (coreFor b) := dif_pos b.checked

theorem tables_wellFormed : tables.wellFormed = true := by decide +kernel

/-- The build over the tables of R100 to R104. -/
def thisBuild : Build where
  tables := tables
  checked := tables_wellFormed

theorem execFor_tables : execFor tables = exec := by
  funext i s
  cases i <;> rfl

theorem coreFor_thisBuild : coreFor thisBuild = core := by
  rw [coreFor, thisBuild, execFor_tables]
  rfl

/-- Settles O1: every value occurs in a table exactly if the table is a bijection, so the checks say what
R105 says; `buildCore` decides on them. -/
theorem tablesPassTheBuildChecks : Obligations.TablesPassTheBuildChecks :=
  ⟨Tables.wellFormed_iff, fun _ => buildCore_eq_none, buildCore_tables, tables_wellFormed,
    (buildCore_tables thisBuild).trans (congrArg some coreFor_thisBuild)⟩

end Sys2Proof.Machine
end

section
/-!
`TAU` and the permutation `P` (40_constants.md R101, 41_spn_primitives.md R123): the entries are the
formula of the 8 by 8 transposition, and what R101 derives of them is arithmetic.
-/
namespace Sys2Proof.Machine

theorem tauAt_eq : ∀ i < 64, tauAt i = 8 * (i % 8) + i / 8 := by decide

theorem tauAt_lt {i : Nat} (hi : i < 64) : tauAt i < 64 := by
  rw [tauAt_eq i hi]
  omega

theorem tauAt_tauAt {i : Nat} (hi : i < 64) : tauAt (tauAt i) = i := by
  rw [tauAt_eq _ (tauAt_lt hi), tauAt_eq i hi]
  omega

theorem tauAt_reverse {i : Nat} (hi : i < 64) : tauAt (63 - i) = 63 - tauAt i := by
  rw [tauAt_eq _ (by omega), tauAt_eq i hi]
  omega

theorem tauAt_eq_self_iff {i : Nat} (hi : i < 64) :
    tauAt i = i ↔ i ∈ [0, 9, 18, 27, 36, 45, 54, 63] := by
  rw [tauAt_eq i hi]
  simp only [List.mem_cons, List.not_mem_nil, or_false]
  omega

theorem byteAt_permute (v : Word512) {i : Nat} (hi : i < 64) :
    byteAt (permute v) i = byteAt v (tauAt i) := by
  rw [permute, Tables.permute, byteAt_bytesToVec _ (by simp) hi]
  simp [hi, tauAt]

/-- Settles O2: the entries are the formula, and counting bytes from the other end commutes with it. -/
theorem tauIsTheTransposition : Obligations.TauIsTheTransposition := by
  refine ⟨fun i hi => ⟨tauAt_eq i hi, tauAt_lt hi, tauAt_tauAt hi, tauAt_reverse hi,
    tauAt_eq_self_iff hi⟩, fun v i hi => ?_⟩
  rw [byteAt_permute v (by omega), tauAt_reverse hi]

end Sys2Proof.Machine
end

section
/-!
Vectors made of equal parts (00_scope.md R9): a vector of 64 equal bytes is also one of eight equal
sub-blocks.
-/
namespace Sys2Proof.Machine

theorem byteAt_replicate (b : Byte) {i : Nat} (hi : i < 64) :
    byteAt (bytesToVec (List.replicate 64 b)) i = b :=
  (byteAt_bytesToVec _ List.length_replicate hi).trans (List.getD_replicate b hi)

theorem wordAt_replicate (w : Word64) {j : Nat} (hj : j < 8) :
    wordAt (wordsToVec (List.replicate 8 w)) j = w :=
  (wordAt_wordsToVec _ List.length_replicate hj).trans (List.getD_replicate w hj)

theorem eq_replicate_of_bytes {v : Word512} {b : Byte} (h : ∀ i < 64, byteAt v i = b) :
    v = bytesToVec (List.replicate 64 b) :=
  eq_of_bytes fun i hi => (h i hi).trans (byteAt_replicate b hi).symm

theorem eq_replicate_of_words {v : Word512} {w : Word64} (h : ∀ j < 8, wordAt v j = w) :
    v = wordsToVec (List.replicate 8 w) :=
  eq_of_words fun j hj => (h j hj).trans (wordAt_replicate w hj).symm

/-- The sub-block of eight equal bytes. -/
def repeatByte (b : Byte) : Word64 := BitVec.replicate 8 b

theorem getLsbD_repeatByte (b : Byte) {k : Nat} (hk : k < 64) :
    (repeatByte b).getLsbD k = b.getLsbD (k % 8) := by
  refine BitVec.getLsbD_replicate.trans ?_
  rw [decide_eq_true hk, Bool.true_and]

theorem getLsbD_bytesToVec_replicate (b : Byte) {k : Nat} (hk : k < 512) :
    (bytesToVec (List.replicate 64 b)).getLsbD k = b.getLsbD (k % 8) := by
  rw [getLsbD_byteAt _ hk, byteAt_replicate b (by omega)]

/-- Sub-blocks begin at multiples of 8, so each of them has the same bytes. -/
theorem bytesToVec_replicate (b : Byte) :
    bytesToVec (List.replicate 64 b) = wordsToVec (List.replicate 8 (repeatByte b)) := by
  refine eq_replicate_of_words fun j hj => BitVec.eq_of_getLsbD_eq fun k hk => ?_
  have hmod : (448 - 64 * j + k) % 8 = k % 8 := by omega
  rw [wordAt, BitVec.getLsbD_extractLsb', decide_eq_true hk, Bool.true_and,
    getLsbD_bytesToVec_replicate b (by omega), getLsbD_repeatByte b hk, hmod]

/-- A byte as a number: this form evaluates without the `2 ^ 512` of the vector's type. -/
theorem byteAt_eq_ofNat_shiftRight (v : Word512) (i : Nat) :
    byteAt v i = BitVec.ofNat 8 (v.toNat >>> (504 - 8 * i)) := rfl

theorem zero512_eq_replicate : zero512 = bytesToVec (List.replicate 64 0x00) := by
  refine eq_replicate_of_bytes ?_
  simp only [byteAt_eq_ofNat_shiftRight, BitVec.toNat_zero]
  decide

theorem allOnes_eq_replicate : BitVec.allOnes 512 = bytesToVec (List.replicate 64 0xff) := by
  refine eq_replicate_of_bytes ?_
  simp only [byteAt_eq_ofNat_shiftRight, BitVec.reduceAllOnes, BitVec.reduceToNat]
  decide

theorem iv_eq_replicate : iv = bytesToVec (List.replicate 64 0x01) := by
  refine eq_replicate_of_bytes ?_
  simp only [byteAt_eq_ofNat_shiftRight, iv, BitVec.reduceToNat]
  decide

end Sys2Proof.Machine
end

section
/-!
The substitution `S` (41_spn_primitives.md R122): it acts byte by byte, and it is a bijection because the
S-box is one (40_constants.md R105).
-/
namespace Sys2Proof.Machine

theorem byteAt_substitute (v : Word512) {i : Nat} (hi : i < 64) :
    byteAt (substitute v) i = sboxAt (byteAt v i) := by
  rw [substitute, Tables.substitute, byteAt_bytesToVec _ (by simp) hi]
  simp [hi, sboxAt]

theorem sboxAt_bijective : Function.Bijective sboxAt :=
  ((Tables.wellFormed_iff tables).mp tables_wellFormed).1.2

theorem substitute_bijective : Function.Bijective substitute := by
  refine Finite.injective_iff_bijective.mp fun a b hab => eq_of_bytes fun i hi => ?_
  refine sboxAt_bijective.injective ?_
  rw [← byteAt_substitute a hi, ← byteAt_substitute b hi, hab]

theorem substitute_bytesToVec {bytes : List Byte} (hlen : bytes.length = 64) :
    substitute (bytesToVec bytes) = bytesToVec (bytes.map sboxAt) := by
  refine eq_of_bytes fun i hi => ?_
  rw [byteAt_substitute _ hi, byteAt_bytesToVec _ hlen hi, byteAt_bytesToVec _ (by simp [hlen]) hi]
  simp [hlen, hi]

theorem substitute_replicate (b : Byte) :
    substitute (bytesToVec (List.replicate 64 b)) = bytesToVec (List.replicate 64 (sboxAt b)) := by
  rw [substitute_bytesToVec List.length_replicate, List.map_replicate]

/-- Settles O4: `S` acts byte by byte, so it is a bijection because the S-box is one, and its values on
given bytes are the S-box's. -/
theorem substituteIsABytewiseBijection : Obligations.SubstituteIsABytewiseBijection := by
  refine ⟨fun v _ hi => byteAt_substitute v hi, substitute_bijective, ?_, ?_, ?_, ?_, rfl, rfl, rfl,
    rfl⟩
  · rw [zero512_eq_replicate, substitute_replicate]
    rfl
  · rw [allOnes_eq_replicate, substitute_replicate]
    rfl
  · rw [iv_eq_replicate, substitute_replicate]
    rfl
  · rw [substitute_bytesToVec (by simp), List.map_map]
    rfl

end Sys2Proof.Machine
end

section
/-!
The permutation `P` (41_spn_primitives.md R123): what moving whole bytes by the involution `TAU` implies.
-/
namespace Sys2Proof.Machine

theorem permute_permute (v : Word512) : permute (permute v) = v := by
  refine eq_of_bytes fun i hi => ?_
  rw [byteAt_permute _ hi, byteAt_permute _ (tauAt_lt hi), tauAt_tauAt hi]

theorem permute_bijective : Function.Bijective permute := Function.Involutive.bijective permute_permute

theorem permute_replicate (b : Byte) :
    permute (bytesToVec (List.replicate 64 b)) = bytesToVec (List.replicate 64 b) := by
  refine eq_replicate_of_bytes fun i hi => ?_
  rw [byteAt_permute _ hi, byteAt_replicate b (tauAt_lt hi)]

theorem byteAt_permute_of_fixed (v : Word512) {i : Nat} (hi : i ∈ [0, 9, 18, 27, 36, 45, 54, 63]) :
    byteAt (permute v) i = byteAt v i := by
  have hlt : ∀ i ∈ [0, 9, 18, 27, 36, 45, 54, 63], i < 64 := by decide
  rw [byteAt_permute v (hlt i hi), (tauAt_eq_self_iff (hlt i hi)).mpr hi]

/-- Byte `i` of the vector `0x00, 0x01, ...` is `i`, so `P` moves `TAU[i]` to position `i`. -/
theorem byteAt_permute_byteIndices {i : Nat} (hi : i < 64) :
    byteAt (permute (bytesToVec ((List.range 64).map (BitVec.ofNat 8)))) i = BitVec.ofNat 8 (tauAt i) := by
  rw [byteAt_permute _ hi, byteAt_bytesToVec _ (by simp) (tauAt_lt hi)]
  simp [tauAt_lt hi]

theorem permute_byteIndices :
    permute (bytesToVec ((List.range 64).map (BitVec.ofNat 8)))
      = 0x00081018202830380109111921293139020a121a222a323a030b131b232b333b040c141c242c343c050d151d252d353d060e161e262e363e070f171f272f373f := by
  refine eq_of_bytes fun i hi => ?_
  rw [byteAt_permute_byteIndices hi]
  revert i
  simp only [byteAt_eq_ofNat_shiftRight, BitVec.reduceToNat]
  decide

/-- Settles O5: `P` moves bytes by `TAU`, which is its own inverse with eight fixed positions. -/
theorem permuteMovesWholeBytes : Obligations.PermuteMovesWholeBytes :=
  ⟨fun v _ hi => byteAt_permute v hi, permute_permute, fun v _ hi => byteAt_permute_of_fixed v hi,
    permute_replicate, permute_byteIndices⟩

/-- `S` changes bytes wherever they stand, and `P` moves them whatever they are. -/
theorem permute_substitute (v : Word512) : permute (substitute v) = substitute (permute v) := by
  refine eq_of_bytes fun i hi => ?_
  rw [byteAt_permute _ hi, byteAt_substitute _ hi, byteAt_substitute _ (tauAt_lt hi), byteAt_permute v hi]

end Sys2Proof.Machine
end

section
/-!
A row vector times a list of rows over GF(2) (40_constants.md R102, 41_spn_primitives.md R124): the
product is a sum over the rows, it is linear, products compose, and the rows of the identity matrix give
the vector back.
-/
namespace Sys2Proof.Machine

/-- A step of a sum over GF(2): the word `f r` is added if `p` selects it. -/
def addSelected (p : Nat → Bool) (f : Nat → Word64) (acc : Word64) (r : Nat) : Word64 :=
  if p r then acc ^^^ f r else acc

theorem addSelected_xor (p : Nat → Bool) (f : Nat → Word64) (a b : Word64) (r : Nat) :
    addSelected p f (a ^^^ b) r = a ^^^ addSelected p f b r := by
  unfold addSelected
  cases p r <;> simp [BitVec.xor_assoc]

theorem getLsbD_addSelected (p : Nat → Bool) (f : Nat → Word64) (acc : Word64) (r k : Nat) :
    (addSelected p f acc r).getLsbD k = (acc.getLsbD k != (p r && (f r).getLsbD k)) := by
  unfold addSelected
  cases p r <;> simp

/-- What a sum adds to its start does not depend on the start. -/
theorem foldl_addSelected (p : Nat → Bool) (f : Nat → Word64) (l : List Nat) (acc : Word64) :
    l.foldl (addSelected p f) acc = acc ^^^ l.foldl (addSelected p f) 0 := by
  have h := List.foldl_hom (acc ^^^ ·) (l := l) (init := 0#64)
    fun b r => addSelected_xor p f acc b r
  rwa [BitVec.xor_zero] at h

/-- A bit of a sum is the sum of the bits. -/
theorem getLsbD_foldl_addSelected (p : Nat → Bool) (f : Nat → Word64) (l : List Nat) (acc : Word64)
    (k : Nat) :
    (l.foldl (addSelected p f) acc).getLsbD k
      = l.foldl (fun acc r => acc != (p r && (f r).getLsbD k)) (acc.getLsbD k) :=
  (List.foldl_hom (BitVec.getLsbD · k) fun acc r => (getLsbD_addSelected p f acc r k).symm).symm

/-- The product is the sum, over the rows in order, of those that the vector selects. -/
theorem xorSelected_eq_foldl (w : Word64) (rows : List Word64) :
    xorSelected w rows rows.length
      = (List.range rows.length).foldl
          (addSelected (fun r => w.getLsbD (rows.length - 1 - r)) (rows.getD · 0)) 0 := by
  induction rows with
  | nil => rfl
  | cons row rows ih =>
    have hstep : (fun acc r => addSelected (fun r => w.getLsbD (rows.length + 1 - 1 - r))
          ((row :: rows).getD · 0) acc (r + 1))
        = addSelected (fun r => w.getLsbD (rows.length - 1 - r)) (rows.getD · 0) := by
      funext acc r
      have hpos : rows.length + 1 - 1 - (r + 1) = rows.length - 1 - r := by omega
      simp only [addSelected, hpos, List.getD_cons_succ]
    rw [List.length_cons, List.range_succ_eq_map, List.foldl_cons, List.foldl_map, hstep,
      foldl_addSelected, ← ih]
    simp [xorSelected, addSelected]

theorem xorSelected_xor (a b : Word64) (rows : List Word64) (k : Nat) :
    xorSelected (a ^^^ b) rows k = xorSelected a rows k ^^^ xorSelected b rows k := by
  induction rows generalizing k with
  | nil => simp [xorSelected]
  | cons row rows ih =>
    cases k with
    | zero => simp [xorSelected]
    | succ k =>
      have hrow : (if (a ^^^ b).getLsbD k then row else 0)
          = (if a.getLsbD k then row else 0) ^^^ (if b.getLsbD k then row else 0) := by
        rw [BitVec.getLsbD_xor]
        cases a.getLsbD k <;> cases b.getLsbD k <;> simp
      rw [xorSelected, xorSelected, xorSelected, ih, hrow]
      ac_rfl

theorem xorSelected_zero (rows : List Word64) (k : Nat) : xorSelected 0#64 rows k = 0#64 := by
  have h := xorSelected_xor 0#64 0#64 rows k
  rwa [BitVec.xor_self, BitVec.xor_self] at h

/-- `(w M) M' = w (M M')`, where the rows of `M M'` are those of `M` times `M'`. -/
theorem xorSelected_xorSelected (w : Word64) (rows rows' : List Word64) (k k' : Nat) :
    xorSelected (xorSelected w rows k) rows' k'
      = xorSelected w (rows.map fun row => xorSelected row rows' k') k := by
  induction rows generalizing k with
  | nil => exact xorSelected_zero rows' k'
  | cons row rows ih =>
    cases k with
    | zero => exact xorSelected_zero rows' k'
    | succ k =>
      rw [List.map_cons, xorSelected, xorSelected, xorSelected_xor, ih]
      cases w.getLsbD k <;> simp [xorSelected_zero]

/-- The last `n` rows of the identity matrix, for `n` up to 64. -/
def unitRows : Nat → List Word64
  | 0 => []
  | n + 1 => BitVec.twoPow 64 n :: unitRows n

theorem getLsbD_xorSelected_unitRows (w : Word64) (n : Nat) {c : Nat} (hc : c < 64) :
    (xorSelected w (unitRows n) n).getLsbD c = (decide (c < n) && w.getLsbD c) := by
  induction n with
  | zero => simp [unitRows, xorSelected]
  | succ n ih =>
    have hbit : (if w.getLsbD n then BitVec.twoPow 64 n else 0).getLsbD c
        = (decide (n = c) && w.getLsbD n) := by
      cases w.getLsbD n
      · simp
      · rcases eq_or_ne n c with rfl | hne
        · simp [hc]
        · simp [BitVec.getLsbD_twoPow, hne]
    rw [unitRows, xorSelected, BitVec.getLsbD_xor, ih, hbit]
    rcases eq_or_ne n c with rfl | hne
    · simp
    · have hlt : c < n + 1 ↔ c < n := by omega
      simp [hne, hlt]

theorem xorSelected_unitRows (w : Word64) : xorSelected w (unitRows 64) 64 = w :=
  BitVec.eq_of_getLsbD_eq fun c hc => by
    rw [getLsbD_xorSelected_unitRows w 64 hc, decide_eq_true hc, Bool.true_and]

end Sys2Proof.Machine
end

section
/-!
The inverse of the matrix of 40_constants.md R102. The core never uses it (41_spn_primitives.md R124); it
stands here as the certificate that the matrix has rank 64, found by Gaussian elimination.
-/
namespace Sys2Proof.Machine

/-- Rows 0 to 15 of the inverse. -/
def inverseRows0to15 : List Word64 :=
  [
    0x62ab88cd0972e917, 0x31db44e88a39fa85, 0x96e3227445927dcc, 0x4bff113aac49b066,
    0xabf1861d56aa5833, 0xdbf643802b552c97, 0xe37baf409ba416c5, 0xffb3d920c3520bec,
    0x37ac80ec39310f5c, 0x955640769296892e, 0xc42b203b494bca17, 0x629b1093aaab6585,
    0x31c308c755dbbccc, 0x96ef04eda4e35e66, 0x4bf902f852ff2f33, 0xabf2017c29f19997
  ]

/-- Rows 16 to 31 of the inverse. -/
def inverseRows16to31 : List Word64 :=
  [
    0x7ba7f6d2966a717c, 0xb3dd7b694b35b63e, 0xd7e0b3baab945b1f, 0xe570d75ddb4aa381,
    0xfc38e5a0e325dfce, 0x7e1cfc50ff9ce167, 0x3f0e7e28f14efebd, 0x91073f14f6277fd0,
    0x8f75c66271c4c510, 0xc9b46331b662ec08, 0xea5abf965b317604, 0x752dd14ba3963b02,
    0xb498e6abdf4b9301, 0x5a4c73dbe1abc78e, 0x2d26b7e3fedbed47, 0x9813d5ff7fe3f8ad
  ]

/-- Rows 32 to 47 of the inverse. -/
def inverseRows32to47 : List Word64 :=
  [
    0xa27784688a48d4ef, 0x51b5423445246af9, 0xa6d4211aac1235f2, 0x536a9e0d56099479,
    0xa7354f882b8a4ab2, 0xdd94a9449b452559, 0xe04ada22c3ac9ca2, 0x70256d11ef564e51,
    0x38d6992f43439caa, 0x1c6bc299afaf4e55, 0x0ebb61c2d9d927a4, 0x07d3be61e2e29d52,
    0x8de75fbe7171c029, 0xc8fda15fb6b6609a, 0x64f0dea15b5b304d, 0x32786fdea3a318a8
  ]

/-- Rows 48 to 63 of the inverse. -/
def inverseRows48to63 : List Word64 :=
  [
    0x7388fc7df56416b6, 0xb7447eb0f4320b5b, 0xd5223f587a198ba3, 0xe411912c3d82cbdf,
    0x7286c6169041ebe1, 0x3943630b48aefbfe, 0x92afbf8b2457f37f, 0x49d9d1cb12a5f7b1,
    0x321902ad3c69a5e9, 0x198201d81ebadcfa, 0x82418e6c0f5d6e7d, 0x41ae473689a037b0,
    0xae57ad1bca509558, 0x57a5d8836528c42c, 0xa5dc6ccfbc146216, 0xdc6e36e95e0a310b
  ]

/-- The rows of the inverse of the matrix whose rows are `tables.rows`. -/
def inverseRows : List Word64 :=
  inverseRows0to15 ++ inverseRows16to31 ++ inverseRows32to47 ++ inverseRows48to63

theorem rows_times_inverseRows :
    tables.rows.map (fun row => xorSelected row inverseRows 64) = unitRows 64 := by decide +kernel

end Sys2Proof.Machine
end

section
/-!
`l64` and `L` (41_spn_primitives.md R124): `l64` is the product with the matrix of R102, and `L` applies
it to each sub-block.
-/
namespace Sys2Proof.Machine

theorem linear64_eq_xorSelected (w : Word64) : linear64 w = xorSelected w tables.rows 64 := by
  rw [linear64, Tables.linear64]

theorem linear64_eq_foldl (w : Word64) :
    linear64 w = (List.range 64).foldl (addSelected (fun r => w.getLsbD (63 - r)) rowAt) 0 := by
  have hlen : tables.rows.length = 64 := rfl
  have hrow : (tables.rows.getD · 0) = rowAt := rfl
  have hsum := xorSelected_eq_foldl w tables.rows
  simp only [hlen, hrow, Nat.reduceSub] at hsum
  rw [linear64_eq_xorSelected, hsum]

theorem getLsbD_linear64 (w : Word64) (k : Nat) :
    (linear64 w).getLsbD k
      = (List.range 64).foldl
          (fun acc r => acc != (w.getLsbD (63 - r) && (rowAt r).getLsbD k)) false := by
  rw [linear64_eq_foldl, getLsbD_foldl_addSelected]
  simp only [BitVec.ofNat_eq_ofNat, BitVec.getLsbD_zero]

theorem linear64_xor (a b : Word64) : linear64 (a ^^^ b) = linear64 a ^^^ linear64 b := by
  simp only [linear64_eq_xorSelected, xorSelected_xor]

theorem linear64_leftInverse :
    Function.LeftInverse (fun w => xorSelected w inverseRows 64) linear64 := fun w => by
  change xorSelected (linear64 w) inverseRows 64 = w
  rw [linear64_eq_xorSelected, xorSelected_xorSelected, rows_times_inverseRows, xorSelected_unitRows]

theorem linear64_bijective : Function.Bijective linear64 :=
  Finite.injective_iff_bijective.mp linear64_leftInverse.injective

theorem wordAt_linear (v : Word512) {j : Nat} (hj : j < 8) :
    wordAt (linear v) j = linear64 (wordAt v j) := by
  rw [linear, Tables.linear, wordAt_wordsToVec _ (by simp) hj]
  simp [hj, linear64]

theorem linear_xor512 (a b : Word512) : linear (xor512 a b) = xor512 (linear a) (linear b) := by
  refine eq_of_words fun j hj => ?_
  simp only [xor512, wordAt_xor, wordAt_linear _ hj, linear64_xor]

theorem linear_zero512 : linear zero512 = zero512 := by
  have h := linear_xor512 zero512 zero512
  simpa only [xor512, BitVec.xor_self] using h

theorem linear_bijective : Function.Bijective linear := by
  refine Finite.injective_iff_bijective.mp fun a b hab => eq_of_words fun j hj => ?_
  refine linear64_bijective.injective ?_
  rw [← wordAt_linear a hj, ← wordAt_linear b hj, hab]

theorem linear_replicate (w : Word64) :
    linear (wordsToVec (List.replicate 8 w)) = wordsToVec (List.replicate 8 (linear64 w)) := by
  refine eq_replicate_of_words fun j hj => ?_
  rw [wordAt_linear _ hj, wordAt_replicate w hj]

theorem linear64_allOnes : linear64 (BitVec.allOnes 64) = 0xab8eff9ec7466498 := by decide

/-- Settles O6: the product's bits are the sum of R124, the product is linear, and the matrix has an
inverse. -/
theorem linearIsTheRowVectorProduct : Obligations.LinearIsTheRowVectorProduct :=
  ⟨fun w c _ => getLsbD_linear64 w (63 - c), fun v _ hj => wordAt_linear v hj, linear_xor512,
    linear_zero512, by decide, by decide, linear64_allOnes, linear64_bijective,
    linear_bijective, by decide, rfl⟩

end Sys2Proof.Machine
end

section
/-!
`LPS` (41_spn_primitives.md R125) and the laws of the primitives together (R129).
-/
namespace Sys2Proof.Machine

theorem lps_eq (v : Word512) : lps v = linear (permute (substitute v)) := rfl

theorem lps_eq_comp : lps = linear ∘ permute ∘ substitute := by
  funext v
  simp only [Function.comp_apply, lps_eq]

theorem lps_bijective : Function.Bijective lps := by
  rw [lps_eq_comp]
  exact linear_bijective.comp (permute_bijective.comp substitute_bijective)

/-- `S` and `P` keep the bytes equal, and `L` keeps the sub-blocks equal. -/
theorem lps_replicate (b : Byte) :
    lps (bytesToVec (List.replicate 64 b))
      = wordsToVec (List.replicate 8 (linear64 (repeatByte (sboxAt b)))) := by
  rw [lps_eq, substitute_replicate, permute_replicate, bytesToVec_replicate, linear_replicate]

/-- Settles O7: `LPS` is a composition of bijections, and `ZERO512` and `IV` have equal bytes. -/
theorem lpsIsABijection : Obligations.LpsIsABijection := by
  have hzero : linear64 (repeatByte (sboxAt 0x00)) = 0xb383fc2eced4a574 := by decide
  have hiv : linear64 (repeatByte (sboxAt 0x01)) = 0x23c5ee40b07b5f15 := by decide
  refine ⟨lps_eq, lps_bijective, ?_, ?_⟩
  · rw [zero512_eq_replicate, lps_replicate, hzero]
  · rw [iv_eq_replicate, lps_replicate, hiv]

theorem xor512_xor512_cancel (a b : Word512) : xor512 (xor512 a b) b = a := by
  rw [xor512, xor512, BitVec.xor_assoc, BitVec.xor_self, BitVec.xor_zero]

theorem linear_allOnes :
    linear (BitVec.allOnes 512) = wordsToVec (List.replicate 8 0xab8eff9ec7466498) := by
  have hword : repeatByte 0xff = BitVec.allOnes 64 := by decide
  rw [allOnes_eq_replicate, bytesToVec_replicate, linear_replicate, hword, linear64_allOnes]

/-- Settles O8: each law is one of the lemmas on `S`, `P`, `L` and `LPS`. -/
theorem primitiveLaws : Obligations.PrimitiveLaws :=
  ⟨substitute_bijective, permute_permute, linear_xor512, xor512_xor512_cancel, permute_substitute,
    fun b => ⟨⟨_, substitute_replicate b⟩, _, permute_replicate b⟩, linear_allOnes,
    fun w => ⟨_, linear_replicate w⟩, fun b => ⟨_, lps_replicate b⟩⟩

end Sys2Proof.Machine
end

section
/-!
The table form of `l64` (41_spn_primitives.md R131): the sum over the 64 rows, taken in eight groups of
eight, one group for each byte of the operand.
-/
namespace Sys2Proof.Machine

/-- Row `8b + k` of the sum is selected by bit `7 - k` of byte `b`. -/
theorem getLsbD_extract_byte (w : Word64) {b k : Nat} (hb : b < 8) (hk : k < 8) :
    (w.extractLsb' (56 - 8 * b) 8).getLsbD (7 - k) = w.getLsbD (63 - (8 * b + k)) := by
  have hpos : 56 - 8 * b + (7 - k) = 63 - (8 * b + k) := by omega
  have hlt : 7 - k < 8 := by omega
  rw [BitVec.getLsbD_extractLsb', hpos, decide_eq_true hlt, Bool.true_and]

theorem linearTable_eq_foldl (b : Nat) (x : Byte) :
    linearTable b x
      = (List.range 8).foldl (addSelected (fun k => x.getLsbD (7 - k)) (fun k => rowAt (8 * b + k))) 0 :=
  rfl

/-- One lookup adds the group of eight rows that its byte selects. -/
theorem xor_linearTable (w acc : Word64) {b : Nat} (hb : b < 8) :
    acc ^^^ linearTable b (w.extractLsb' (56 - 8 * b) 8)
      = ((List.range 8).map (8 * b + ·)).foldl (addSelected (fun r => w.getLsbD (63 - r)) rowAt) acc := by
  rw [linearTable_eq_foldl, ← foldl_addSelected, List.foldl_map]
  refine List.foldl_ext _ _ _ fun acc k hk => ?_
  simp only [addSelected, getLsbD_extract_byte w hb (List.mem_range.mp hk)]

theorem range_64_eq_groups :
    List.range 64 = (List.range 8).flatMap fun b => (List.range 8).map (8 * b + ·) := by decide

/-- Settles O9: the sum of the selected rows, regrouped by bytes, is the sum of the lookups. -/
theorem tableFormEqualsLinear : Obligations.TableFormEqualsLinear := fun w => by
  rw [linear64_eq_foldl, range_64_eq_groups, List.foldl_flatMap, linear64ByTables]
  exact List.foldl_ext _ _ _ fun acc b hb => xor_linearTable w acc (List.mem_range.mp hb)

end Sys2Proof.Machine
end

section
/-!
The conversions between vectors and integers (41_spn_primitives.md R127), and the two additions of
vectors, `X` (R121) and the one modulo `2 ^ 512` (R126).
-/
namespace Sys2Proof.Machine

/-- The binary digits of a number, below `2 ^ w`, add up to it. -/
theorem mod_two_pow_eq_sum (n w : Nat) :
    n % 2 ^ w = ((List.range w).map fun k => (n.testBit k).toNat * 2 ^ k).sum := by
  induction w with
  | zero => simp [Nat.mod_one]
  | succ w ih =>
    rw [Nat.mod_pow_succ, ih, List.range_succ, List.map_append, List.sum_append, List.map_singleton,
      List.sum_singleton, Nat.toNat_testBit, Nat.mul_comm]

theorem bitsToInt_eq_sum {w : Nat} (v : BitVec w) :
    bitsToInt v = ((List.range w).map fun k => (v.getLsbD k).toNat * 2 ^ k).sum :=
  (Nat.mod_eq_of_lt v.isLt).symm.trans (mod_two_pow_eq_sum v.toNat w)

theorem bitsToInt_intToBits {w n : Nat} (hn : n < 2 ^ w) : bitsToInt (intToBits n w) = n :=
  (BitVec.toNat_ofNat n w).trans (Nat.mod_eq_of_lt hn)

theorem intToBits_bitsToInt {w : Nat} (v : BitVec w) : intToBits (bitsToInt v) w = v :=
  (BitVec.ofNat_toNat w v).trans (BitVec.setWidth_eq v)

theorem bitsToInt_iv : bitsToInt iv = ((List.range 64).map fun i => 2 ^ (8 * i)).sum := by
  simp only [bitsToInt, iv, BitVec.reduceToNat, pow_mul]
  decide

/-- Settles O11: an integer below `2 ^ w` is the sum of its `w` binary digits. -/
theorem integerConversionsRoundTrip : Obligations.IntegerConversionsRoundTrip :=
  ⟨fun _ => bitsToInt_eq_sum, fun _ _ => bitsToInt_intToBits, fun _ => intToBits_bitsToInt, bitsToInt_iv⟩

/-- Settles O3: `X` is the library's bitwise XOR. -/
theorem xorIsBitwise : Obligations.XorIsBitwise :=
  ⟨fun _ _ _ => BitVec.getLsbD_xor, fun _ => BitVec.xor_self, fun _ => BitVec.xor_zero, BitVec.xor_comm,
    BitVec.xor_assoc, BitVec.xor_self⟩

theorem bitsToInt_add512 (a b : Word512) :
    bitsToInt (add512 a b) = (bitsToInt a + bitsToInt b) % 2 ^ 512 :=
  bitsToInt_intToBits (Nat.mod_lt _ (pow_pos Nat.two_pos 512))

theorem add512_allOnes_one : add512 (BitVec.allOnes 512) 1 = zero512 := by
  rw [add512_eq, ← BitVec.neg_one_eq_allOnes]
  exact BitVec.add_left_neg 1#512

/-- Settles O10: the addition is the library's, which is a commutative monoid. -/
theorem additionIsModular : Obligations.AdditionIsModular := by
  refine ⟨fun _ _ => rfl, bitsToInt_add512, add512_allOnes_one, ?_, ?_, ?_⟩
  all_goals simp only [add512_eq]
  · exact BitVec.add_comm
  · exact BitVec.add_assoc
  · exact fun a => BitVec.add_zero a

end Sys2Proof.Machine
end

section
/-!
The key schedule (42_compression.md R150): the list of round keys is the sequence that the recurrence
gives from its first key.
-/
namespace Sys2Proof

open Machine

theorem Tables.length_roundKeysFrom (t : Tables) (cs : List Word512) (key : Word512) :
    (t.roundKeysFrom key cs).length = cs.length + 1 := by
  induction cs generalizing key with
  | nil => rfl
  | cons c cs ih => rw [roundKeysFrom, List.length_cons, ih, List.length_cons]

theorem Tables.getD_roundKeysFrom_zero (t : Tables) (cs : List Word512) (key : Word512) :
    (t.roundKeysFrom key cs).getD 0 0 = key := by
  cases cs <;> rfl

theorem Tables.getD_roundKeysFrom_succ (t : Tables) (cs : List Word512) (key : Word512) {i : Nat}
    (hi : i < cs.length) :
    (t.roundKeysFrom key cs).getD (i + 1) 0
      = t.lps (xor512 ((t.roundKeysFrom key cs).getD i 0) (cs.getD i 0)) := by
  induction cs generalizing key i with
  | nil => exact absurd hi (Nat.not_lt_zero i)
  | cons c cs ih =>
    rw [roundKeysFrom, List.getD_cons_succ]
    cases i with
    | zero => rw [getD_roundKeysFrom_zero, List.getD_cons_zero, List.getD_cons_zero]
    | succ i => rw [ih _ (Nat.lt_of_succ_lt_succ hi), List.getD_cons_succ, List.getD_cons_succ]

end Sys2Proof

namespace Sys2Proof.Machine

theorem keySchedule_eq (n h : Word512) :
    keySchedule n h = tables.roundKeysFrom (lps (xor512 h n)) tables.roundConstants := rfl

theorem length_roundConstants : tables.roundConstants.length = 12 := rfl

theorem length_keySchedule (n h : Word512) : (keySchedule n h).length = 13 :=
  tables.length_roundKeysFrom tables.roundConstants _

theorem getD_keySchedule_zero (n h : Word512) : (keySchedule n h).getD 0 0 = lps (xor512 h n) :=
  tables.getD_roundKeysFrom_zero tables.roundConstants _

theorem getD_keySchedule_succ (n h : Word512) {i : Nat} (hi : i < 12) :
    (keySchedule n h).getD (i + 1) 0
      = lps (xor512 ((keySchedule n h).getD i 0) (roundConstantAt i)) :=
  tables.getD_roundKeysFrom_succ tables.roundConstants _ (hi.trans_eq length_roundConstants.symm)

theorem getD_keySchedule_zero512_zero (h : Word512) : (keySchedule zero512 h).getD 0 0 = lps h := by
  rw [getD_keySchedule_zero, xor512, BitVec.xor_zero]

theorem getD_keySchedule_self_zero (h : Word512) : (keySchedule h h).getD 0 0 = lps zero512 := by
  rw [getD_keySchedule_zero, xor512, BitVec.xor_self]

/-- Settles O12: the keys follow the recurrence from `K0`, and the example's `K0` is the value of `LPS`
at `IV` that R125 gives. -/
theorem keyScheduleRecurrence : Obligations.KeyScheduleRecurrence := by
  obtain ⟨-, -, -, hiv⟩ := lpsIsABijection
  have hkey0 := (getD_keySchedule_zero512_zero iv).trans hiv
  refine ⟨fun n h => ⟨length_keySchedule n h, getD_keySchedule_zero n h, fun i hpos hle => ?_⟩,
    fun n h n' h' hkey => ?_, getD_keySchedule_zero512_zero, getD_keySchedule_self_zero, hkey0, ?_⟩
  · obtain ⟨k, rfl⟩ := Nat.exists_eq_add_of_le' hpos
    exact getD_keySchedule_succ n h hle
  · rw [keySchedule_eq, keySchedule_eq, hkey]
  · rw [getD_keySchedule_succ _ _ (by decide), hkey0]
    decide +kernel

end Sys2Proof.Machine
end

section
/-!
The cipher (42_compression.md R155): a sequence of LPS rounds under all keys but the last, which is added.
-/
namespace Sys2Proof.Machine

/-- `e(i)` of R155: the cipher's state before round `i`. -/
def cipherState (keys : List Word512) (m : Word512) : Nat → Word512
  | 0 => m
  | i + 1 => lps (xor512 (keys.getD i 0) (cipherState keys m i))

/-- The rounds after the first are those of the remaining keys, from the first round's result. -/
theorem cipherState_cons (key : Word512) (keys : List Word512) (m : Word512) (i : Nat) :
    cipherState (key :: keys) m (i + 1) = cipherState keys (lps (xor512 key m)) i := by
  induction i with
  | zero => rfl
  | succ i ih => rw [cipherState, ih, List.getD_cons_succ, ← cipherState]

theorem encrypt_singleton (key m : Word512) : encrypt [key] m = xor512 m key := rfl

theorem encrypt_cons_cons (key key' : Word512) (keys : List Word512) (m : Word512) :
    encrypt (key :: key' :: keys) m = encrypt (key' :: keys) (lps (xor512 key m)) := rfl

theorem encrypt_eq_cipherState {keys : List Word512} {r : Nat} (hlen : keys.length = r + 1) (m : Word512) :
    encrypt keys m = xor512 (cipherState keys m r) (keys.getD r 0) := by
  induction r generalizing keys m with
  | zero =>
    obtain ⟨key, rfl⟩ := List.length_eq_one_iff.mp hlen
    exact encrypt_singleton key m
  | succ r ih =>
    match keys, hlen with
    | key :: key' :: keys, hlen =>
      rw [encrypt_cons_cons, ih (Nat.succ.inj hlen), cipherState_cons, List.getD_cons_succ]

theorem encrypt_keySchedule_zero512_iv_one :
    encrypt (keySchedule zero512 iv) 1
      = 0x6f87fa6931a5019113adaf2fdc943a3e00b4c47384aaf3689340960ea040f172fc83c94bebcfc06213641d49baa08bec265c53d354134a64835cc98983b30115 := by
  decide +kernel

/-- Settles O13: the sequence of cipher states satisfies the equations of R155. -/
theorem encryptRunsTwelveRounds : Obligations.EncryptRunsTwelveRounds :=
  ⟨fun keys m hlen => ⟨cipherState keys m, rfl, fun _ _ => rfl, encrypt_eq_cipherState hlen m⟩,
    encrypt_keySchedule_zero512_iv_one⟩

end Sys2Proof.Machine
end

section
/-!
The compression function (42_compression.md R160): the cipher's result with `h` and `m` added.
-/
namespace Sys2Proof.Machine

theorem compress_eq (n h m : Word512) :
    compress n h m = xor512 (xor512 (encrypt (keySchedule n h) m) h) m := rfl

theorem compress_self (n h : Word512) : compress n h h = encrypt (keySchedule n h) h := by
  rw [compress_eq, xor512_xor512_cancel]

/-- Settles O14: the formula is the definition, for `m = h` the two additions cancel, and the value for
the padding step of the empty message is the cipher's value of R155 with `IV` and `1` added. -/
theorem compressionFoldsTheCipher : Obligations.CompressionFoldsTheCipher := by
  refine ⟨compress_eq, compress_self, ?_, ?_⟩
  · rw [compress_self]
    decide +kernel
  · rw [compress_eq, encrypt_keySchedule_zero512_iv_one]
    decide +kernel

end Sys2Proof.Machine
end

section
/-!
The operand of LAST (43_commands.md R180, R182): the tail and the padded block, as integers and bit by bit.
-/
namespace Sys2Proof.Machine

theorem intToBits_two_pow {n w : Nat} (hn : n < w) : intToBits (2 ^ n) w = BitVec.twoPow w n := by
  refine BitVec.eq_of_toNat_eq ?_
  rw [BitVec.toNat_twoPow_of_lt hn]
  exact bitsToInt_intToBits (Nat.pow_lt_pow_right Nat.one_lt_two hn)

theorem toNat_mask {n : Nat} (hn : n < 512) : (mask n).toNat = 2 ^ n - 1 := by
  have hbit : (1#512 <<< n).toNat = 2 ^ n := by
    rw [← BitVec.twoPow_eq, BitVec.toNat_twoPow_of_lt hn]
  have hle : 1#512 ≤ 1#512 <<< n := by
    rw [BitVec.le_def, hbit, BitVec.toNat_one (by decide)]
    exact Nat.one_le_two_pow
  rw [mask, BitVec.toNat_sub_of_le hle, hbit, BitVec.toNat_one (by decide)]

theorem toNat_tail (len : BitVec 9) (d : Word512) : (tail len d).toNat = d.toNat % 2 ^ len.toNat := by
  rw [tail, BitVec.toNat_and, toNat_mask len.isLt, Nat.and_two_pow_sub_one_eq_mod]

theorem getLsbD_tail (len : BitVec 9) (d : Word512) (k : Nat) :
    (tail len d).getLsbD k = (decide (k < len.toNat) && d.getLsbD k) := by
  rw [← BitVec.testBit_toNat, toNat_tail, Nat.testBit_mod_two_pow, BitVec.testBit_toNat]

theorem tail_congr {len : BitVec 9} {d d' : Word512}
    (h : ∀ k < len.toNat, d.getLsbD k = d'.getLsbD k) : tail len d = tail len d' := by
  refine BitVec.eq_of_getLsbD_eq fun k _ => ?_
  rw [getLsbD_tail, getLsbD_tail]
  by_cases hk : k < len.toNat
  · rw [h k hk]
  · simp [hk]

/-- The 1 bit stands above every bit of the tail, so setting it adds its weight. -/
theorem toNat_padded (len : BitVec 9) (d : Word512) :
    (padded len d).toNat = 2 ^ len.toNat + (tail len d).toNat := by
  have htail : (tail len d).toNat < 2 ^ len.toNat := by
    rw [toNat_tail]
    exact Nat.mod_lt _ (Nat.two_pow_pos _)
  have hor := Nat.two_pow_add_eq_or_of_lt htail 1
  rw [Nat.mul_one] at hor
  rw [padded, BitVec.toNat_or, intToBits_two_pow len.isLt, BitVec.toNat_twoPow_of_lt len.isLt, hor]

theorem getLsbD_padded (len : BitVec 9) (d : Word512) (k : Nat) :
    (padded len d).getLsbD k = (decide (len.toNat = k) || decide (k < len.toNat) && d.getLsbD k) := by
  have hlen : len.toNat < 512 := len.isLt
  rw [padded, BitVec.getLsbD_or, intToBits_two_pow hlen, BitVec.getLsbD_twoPow, getLsbD_tail]
  simp [hlen]

/-- Settles O49: the padded block is read as an integer and bit by bit. -/
theorem paddedBlockForm : Obligations.PaddedBlockForm := by
  refine fun len d => ⟨toNat_padded len d, ?_, fun k hk _ => ?_, fun k hk => ?_⟩
  · simp [getLsbD_padded]
  · simp [getLsbD_padded, Nat.ne_of_lt hk, Nat.not_lt_of_gt hk]
  · simp [getLsbD_padded, hk, Nat.ne_of_gt hk]

end Sys2Proof.Machine
end

section
/-!
The use of `din` by LAST (43_commands.md R180): what LAST writes depends on the architected state and on
the tail.
-/
namespace Sys2Proof.Machine

/-- A legal command taken whole: the meaning of the accepted word's command. -/
theorem command_encode {s : State} (hs : s.resetSeen = true) (i : Instr) (d : Word512) :
    s.command (encode i) d = .next (written i { s.accept (encode i) d with wait := 0 }).finish := by
  rw [command_eq hs, completed]
  simp only [State.accept_cmdLatch, decode_encode]

theorem State.architected_eq_iff {s t : State} :
    s.architected = t.architected ↔
      s.h = t.h ∧ s.n = t.n ∧ s.sigma = t.sigma ∧ s.phase = t.phase ∧ s.err = t.err
        ∧ s.errcode = t.errcode := by
  simp only [State.architected, Architected.mk.injEq]

theorem written_last_architected_congr {s t : State} {len : BitVec 9}
    (harch : s.architected = t.architected) (htail : tail len s.dinLatch = tail len t.dinLatch) :
    (written (.last len) s).architected = (written (.last len) t).architected := by
  have hblock : padded len s.dinLatch = padded len t.dinLatch := congrArg (_ ||| ·) htail
  obtain ⟨hh, hn, hsigma, hphase, herr, hcode⟩ := State.architected_eq_iff.mp harch
  by_cases hdone : t.phase = .done
  · rw [written, written, unlessDone_done (hphase.trans hdone), unlessDone_done hdone]
    rw [State.raiseError_architected, State.raiseError_architected, harch]
  · rw [written, written, unlessDone_else (hphase ▸ hdone), unlessDone_else hdone]
    simp [State.architected_eq_iff, hblock, hh, hn, hsigma, herr, hcode]

/-- Settles O48: two `din` words with the same low LEN bits have the same tail, and the states that accept
them differ in the latched `din` only. -/
theorem tailUsesTheLowBitsOnly : Obligations.TailUsesTheLowBitsOnly := by
  refine ⟨fun len d k _ => getLsbD_tail len d k, fun s len d d' hs hbits => ?_⟩
  refine ⟨_, _, command_encode hs.reset _ d, command_encode hs.reset _ d', ?_⟩
  rw [State.finish_architected, State.finish_architected]
  exact written_last_architected_congr rfl (tail_congr hbits)

end Sys2Proof.Machine
end

section
/-!
The transitions of PHASE (43_commands.md R176): at the completion of a command, at its acceptance, and at
any clock edge.
-/
namespace Sys2Proof.Machine

theorem unlessDone_phase (s t : State) :
    (s.unlessDone t).phase = if s.phase = .done then .done else t.phase := by
  unfold State.unlessDone
  split <;> simp [*]

theorem completed_phase (s : State) : (completed s).phase = phaseAfter s.cmdLatch s.phase := by
  unfold completed phaseAfter
  cases decode s.cmdLatch with
  | error e => rfl
  | ok i =>
    cases i with
    | nop => rfl
    | init => rfl
    | block => simp [written, unlessDone_phase, eq_comm]
    | last len => simp [written, unlessDone_phase]

theorem acceptedPhase_eq (c : CmdWord) (p : Phase) :
    acceptedPhase c p = if isLastWord c = true ∧ p = .accumulating then .finalizing else p := by
  unfold acceptedPhase isLastWord
  cases decode c with
  | error e => simp
  | ok i =>
    cases i with
    | last len => cases p <;> rfl
    | _ => simp

/-- The phase after each of the five things a clock edge can do. -/
theorem step_phase {s t : State} (hs : s.resetSeen = true) (h : step s = .next t) :
    t.phase =
      if s.ports.rst then .accumulating
      else if s.busy then
        if s.wait = 0 then phaseAfter s.cmdLatch s.phase else s.phase
      else if s.ports.cmdValid then acceptedPhase s.ports.cmd s.phase
      else s.phase := by
  rw [step, clockEdge_eq hs, Host.Outcome.next.injEq] at h
  subst h
  simp only [apply_ite State.phase, State.applyReset_phase, State.finish_phase, completed_phase,
    State.tick_phase, State.accept_phase, State.popInput_phase, State.popInput_cmdLatch]

/-- Settles O33: an edge completes a command or accepts one, and each changes PHASE as R176 says. -/
theorem phaseTransitionsAreExactlyThese : Obligations.PhaseTransitionsAreExactlyThese := by
  intro s t hinv h
  rw [step_phase hinv.reset h]
  have haccept : (if s.ports.cmdValid then acceptedPhase s.ports.cmd s.phase else s.phase)
      = if s.ports.cmdValid = true ∧ isLastWord s.ports.cmd = true ∧ s.phase = .accumulating then
          .finalizing else s.phase := by
    rw [acceptedPhase_eq, ← ite_and]
  rw [haccept]
  rfl

end Sys2Proof.Machine
end

section
/-!
The counters over a message (43_commands.md R184, R185): between INIT and LAST, `N` and `SIGMA` hold the
bits and the sum of the blocks so far, modulo `2 ^ 512`.
-/
namespace Sys2Proof.Machine

/-- A message is being accumulated, of which `bits` bits have been absorbed in blocks that sum to
`total`. -/
structure Accumulated (bits total : Nat) (s : State) : Prop where
  reset : s.resetSeen = true
  phase : s.phase = .accumulating
  n : s.n = intToBits bits 512
  sigma : s.sigma = intToBits total 512

theorem add512_intToBits (a b : Nat) :
    add512 (intToBits a 512) (intToBits b 512) = intToBits (a + b) 512 := by
  rw [add512_eq]
  exact (BitVec.ofNat_add a b).symm

theorem add512_intToBits_left (a : Nat) (v : Word512) :
    add512 (intToBits a 512) v = intToBits (a + v.toNat) 512 := by
  rw [← add512_intToBits]
  exact congrArg (add512 _) (intToBits_bitsToInt v).symm

theorem command_init_accumulated {s : State} (hs : s.resetSeen = true) (d : Word512) :
    ∃ t, s.command (encode .init) d = .next t ∧ Accumulated 0 0 t :=
  ⟨_, command_encode hs .init d, by simpa [written] using hs, rfl, rfl, rfl⟩

theorem command_block_accumulated {s : State} {bits total : Nat} (hs : Accumulated bits total s)
    (b : Word512) :
    ∃ t, s.command (encode .block) b = .next t ∧ Accumulated (bits + 512) (total + b.toNat) t := by
  refine ⟨_, command_encode hs.reset .block b, ?_⟩
  have hphase : acceptedPhase (encode .block) s.phase = .accumulating := hs.phase
  have hn : add512 s.n (intToBits 512 512) = intToBits (bits + 512) 512 := by
    rw [hs.n, add512_intToBits]
  have hsigma : add512 s.sigma b = intToBits (total + b.toNat) 512 := by
    rw [hs.sigma, add512_intToBits_left]
  rw [written, unlessDone_else (by simp [hphase])]
  exact ⟨by simpa using hs.reset, by simpa using hphase, by simpa using hn, by simpa using hsigma⟩

theorem runCommands_blocks_accumulated (blocks : List Word512) {s : State} {bits total : Nat}
    (hs : Accumulated bits total s) :
    ∃ t, runCommands (blocks.map fun b => (encode .block, b)) s = .next t
      ∧ Accumulated (bits + 512 * blocks.length) (total + (blocks.map BitVec.toNat).sum) t := by
  induction blocks generalizing s bits total with
  | nil => exact ⟨s, rfl, hs⟩
  | cons b rest ih =>
    obtain ⟨u, hblock, hu⟩ := command_block_accumulated hs b
    obtain ⟨t, hrest, ht⟩ := ih hu
    refine ⟨t, (runCommands_cons hblock _).trans hrest, ?_⟩
    rwa [List.map_cons, List.sum_cons, List.length_cons, Nat.mul_succ, ← Nat.add_assoc total,
      Nat.add_comm (512 * _), ← Nat.add_assoc bits]

theorem lenBits_eq_intToBits (len : BitVec 9) : lenBits len = intToBits len.toNat 512 :=
  (BitVec.ofNat_toNat 512 len).symm

theorem command_last_counters {s : State} {bits total : Nat} (hs : Accumulated bits total s)
    (len : BitVec 9) (d : Word512) :
    ∃ t, s.command (encode (.last len)) d = .next t
      ∧ t.n = intToBits (bits + len.toNat) 512
      ∧ t.sigma = intToBits (total + (padded len d).toNat) 512
      ∧ t.phase = .done := by
  refine ⟨_, command_encode hs.reset (.last len) d, ?_⟩
  have hphase : acceptedPhase (encode (.last len)) s.phase = .finalizing := by
    simp only [hs.phase, acceptedPhase, decode_encode]
  have hn : add512 s.n (lenBits len) = intToBits (bits + len.toNat) 512 := by
    rw [hs.n, lenBits_eq_intToBits, add512_intToBits]
  have hsigma : add512 s.sigma (padded len d) = intToBits (total + (padded len d).toNat) 512 := by
    rw [hs.sigma, add512_intToBits_left]
  rw [written, unlessDone_else (by simp [hphase])]
  exact ⟨hn, hsigma, rfl⟩

theorem toNat_intToBits (n w : Nat) : (intToBits n w).toNat = n % 2 ^ w := BitVec.toNat_ofNat n w

/-- Settles O52: INIT starts both counters at 0, each block counts, and LAST counts the tail in `N` and
the padded block in `SIGMA`. -/
theorem countersOverAMessage : Obligations.CountersOverAMessage := by
  intro blocks len d s hs
  obtain ⟨u, hinit, hu⟩ := command_init_accumulated hs.reset 0
  obtain ⟨v, hblocks, hv⟩ := runCommands_blocks_accumulated blocks hu
  obtain ⟨t, hlast, hn, hsigma, hdone⟩ := command_last_counters hv len d
  simp only [Nat.zero_add] at hn hsigma
  refine ⟨t, ?_, ?_, ?_, hdone⟩
  · rw [List.cons_append, runCommands_cons hinit, runCommands_append _ _ hblocks,
      runCommands_cons hlast, runCommands_nil]
  · rw [hn, toNat_intToBits]
  · rw [hsigma, toNat_intToBits]

end Sys2Proof.Machine
end

section
/-!
Integers from digits in a base, first digit most significant (44_host_boundary.md R200): the library's
`Nat.ofDigits`, which reads the first digit as the least significant.
-/
namespace Sys2Proof.Machine

theorem ofDigits_eq_nat_ofDigits (b : Nat) (ds : List Nat) : ofDigits b ds = Nat.ofDigits b ds.reverse := by
  simp only [ofDigits, Nat.ofDigits_eq_foldr, List.foldr_reverse, Nat.cast_id, Nat.add_comm]

theorem ofDigits_append (b : Nat) (ds ds' : List Nat) :
    ofDigits b (ds ++ ds') = ofDigits b ds * b ^ ds'.length + ofDigits b ds' := by
  simp only [ofDigits_eq_nat_ofDigits, List.reverse_append, Nat.ofDigits_append, List.length_reverse]
  ring

theorem ofDigits_append_singleton (b : Nat) (ds : List Nat) (d : Nat) :
    ofDigits b (ds ++ [d]) = b * ofDigits b ds + d :=
  List.foldl_append

theorem ofDigits_lt {b : Nat} (hb : 1 < b) {ds : List Nat} (hds : ∀ d ∈ ds, d < b) :
    ofDigits b ds < b ^ ds.length := by
  rw [ofDigits_eq_nat_ofDigits, ← List.length_reverse]
  exact Nat.ofDigits_lt_base_pow_length hb fun d hd => hds d (List.mem_reverse.mp hd)

end Sys2Proof.Machine
end

section
/-!
The hex normalizer (44_host_boundary.md R202): what each character is worth, and that a string of hex
digits is read digit by digit.
-/
namespace Sys2Proof.Machine

/-! ### One character -/

/-- No hex digit, and no character that changes case to one, lies above the 128 of ASCII. -/
theorem forall_char_of_ascii {p : Char → Prop} (hlow : ∀ n < 128, p (Char.ofNat n))
    (hhigh : ∀ ch : Char, 128 ≤ ch.toNat → p ch) (ch : Char) : p ch := by
  rcases Nat.lt_or_ge ch.toNat 128 with h | h
  · exact ch.ofNat_toNat ▸ hlow ch.toNat h
  · exact hhigh ch h

theorem hexDigit?_of_not_ascii {ch : Char} (h : 128 ≤ ch.toNat) : hexDigit? ch = none := by
  have habove : ∀ bound : Char, bound.toNat < 128 → ¬ ch ≤ bound := fun bound hb hle =>
    absurd (UInt32.le_iff_toNat_le.mp hle) (by change ¬ ch.toNat ≤ bound.toNat; omega)
  rw [hexDigit?, if_neg fun hc => habove '9' (by decide) hc.2,
    if_neg fun hc => habove 'f' (by decide) hc.2, if_neg fun hc => habove 'F' (by decide) hc.2]

theorem toUpper_of_not_ascii {ch : Char} (h : 128 ≤ ch.toNat) : ch.toUpper = ch := by
  refine Char.toUpper_eq_of_not_isLower fun hlower => ?_
  simp only [Char.isLower, Bool.and_eq_true, decide_eq_true_eq] at hlower
  exact absurd (UInt32.le_iff_toNat_le.mp hlower.2) (Nat.not_le_of_lt (Nat.lt_of_lt_of_le (by decide) h))

/-- The characters that R202 accepts. -/
def hexChars : List Char := "0123456789abcdefABCDEF".toList

theorem hexDigit?_isSome_iff (ch : Char) : (hexDigit? ch).isSome = true ↔ ch ∈ hexChars := by
  refine forall_char_of_ascii (p := fun ch => (hexDigit? ch).isSome = true ↔ ch ∈ hexChars)
    (by decide +kernel) (fun ch h => ?_) ch
  have hnone := hexDigit?_of_not_ascii h
  have hchars : ∀ c ∈ hexChars, (hexDigit? c).isSome = true := List.all_eq_true.mp (by decide +kernel)
  constructor
  · simp [hnone]
  · exact hchars ch

theorem hexDigit?_toUpper (ch : Char) : hexDigit? ch.toUpper = hexDigit? ch := by
  refine forall_char_of_ascii (p := fun ch => hexDigit? ch.toUpper = hexDigit? ch) (by decide +kernel)
    (fun ch h => ?_) ch
  rw [toUpper_of_not_ascii h]

theorem hexDigit?_lt {ch : Char} {d : Nat} (h : hexDigit? ch = some d) : d < 16 := by
  have hvalues : hexChars.all (fun c => (hexDigit? c).all (· < 16)) = true := by decide +kernel
  have hch := List.all_eq_true.mp hvalues ch ((hexDigit?_isSome_iff ch).mp (Option.isSome_of_eq_some h))
  simpa [h] using hch

/-! ### A string -/

theorem hexDigits?_eq_some_iff {s : List Char} {ds : List Nat} :
    hexDigits? s = some ds ↔ s.map hexDigit? = ds.map some := by
  induction s generalizing ds with
  | nil => cases ds <;> simp [hexDigits?]
  | cons ch rest ih =>
    rw [hexDigits?]
    cases ds with
    | nil => split <;> simp
    | cons d ds =>
      rw [List.map_cons, List.map_cons, List.cons.injEq, ← ih]
      split <;> simp_all

theorem hexDigits?_isSome_iff (s : List Char) :
    (hexDigits? s).isSome = true ↔ ∀ ch ∈ s, ch ∈ hexChars := by
  induction s with
  | nil => simp [hexDigits?]
  | cons ch rest ih =>
    rw [List.forall_mem_cons, ← ih, ← hexDigit?_isSome_iff, hexDigits?]
    cases hexDigit? ch <;> cases hexDigits? rest <;> simp

theorem normalizeHex_eq_ok_iff {s : List Char} {m : Message} :
    normalizeHex s = .ok m ↔
      ∃ ds, s.map hexDigit? = ds.map some ∧ m = { value := ofDigits 16 ds, length := 4 * ds.length } := by
  simp only [← hexDigits?_eq_some_iff, normalizeHex]
  cases hexDigits? s <;> simp [eq_comm]

theorem normalizeHex_of_mem {s : List Char} (h : ∀ ch ∈ s, ch ∈ hexChars) :
    ∃ m, normalizeHex s = .ok m := by
  obtain ⟨ds, hds⟩ := Option.isSome_iff_exists.mp ((hexDigits?_isSome_iff s).mpr h)
  exact ⟨_, normalizeHex_eq_ok_iff.mpr ⟨ds, hexDigits?_eq_some_iff.mp hds, rfl⟩⟩

theorem normalizeHex_of_not_mem {s : List Char} (h : ∃ ch ∈ s, ch ∉ hexChars) :
    normalizeHex s = .error .invalidHexInput := by
  obtain ⟨ch, hmem, hbad⟩ := h
  have hnone : hexDigits? s = none := by
    rw [← Option.not_isSome_iff_eq_none, hexDigits?_isSome_iff]
    exact fun hall => hbad (hall ch hmem)
  simp only [normalizeHex, hnone]

theorem exists_normalizeHex_iff (s : List Char) :
    (∃ m, normalizeHex s = .ok m) ↔ ∀ ch ∈ s, ch ∈ hexChars := by
  refine ⟨fun ⟨m, hm⟩ => ?_, normalizeHex_of_mem⟩
  by_contra hnot
  push Not at hnot
  simp [normalizeHex_of_not_mem hnot] at hm

theorem normalizeHex_bounds {s : List Char} {m : Message} (h : normalizeHex s = .ok m) :
    m.length = 4 * s.length ∧ m.value < 2 ^ m.length := by
  obtain ⟨ds, hds, rfl⟩ := normalizeHex_eq_ok_iff.mp h
  have hlen : ds.length = s.length := by simpa using congrArg List.length hds.symm
  have hlt : ∀ d ∈ ds, d < 16 := fun d hd => by
    have hmem : some d ∈ s.map hexDigit? := hds ▸ List.mem_map_of_mem hd
    obtain ⟨ch, -, hch⟩ := List.mem_map.mp hmem
    exact hexDigit?_lt hch
  refine ⟨by rw [hlen], ?_⟩
  rw [pow_mul]
  exact ofDigits_lt (by decide) hlt

theorem normalizeHex_append_singleton {s : List Char} {m : Message} {ch : Char} {d : Nat}
    (hs : normalizeHex s = .ok m) (hch : hexDigit? ch = some d) :
    normalizeHex (s ++ [ch]) = .ok { value := 16 * m.value + d, length := m.length + 4 } := by
  obtain ⟨ds, hds, rfl⟩ := normalizeHex_eq_ok_iff.mp hs
  refine normalizeHex_eq_ok_iff.mpr ⟨ds ++ [d], by simp [hds, hch], ?_⟩
  rw [ofDigits_append_singleton, List.length_append, List.length_singleton, Nat.mul_add]

theorem hexDigits?_map_toUpper (s : List Char) : hexDigits? (s.map Char.toUpper) = hexDigits? s := by
  induction s with
  | nil => rfl
  | cons ch rest ih => rw [List.map_cons, hexDigits?, hexDigits?, ih, hexDigit?_toUpper]

theorem normalizeHex_map_toUpper (s : List Char) :
    normalizeHex (s.map Char.toUpper) = normalizeHex s := by
  rw [normalizeHex, normalizeHex, hexDigits?_map_toUpper]

/-- Settles O57: a string of hex digits is read digit by digit, and neither a digit nor its value depends
on the case of the character. -/
theorem hexNormalizer : Obligations.HexNormalizer := by
  refine ⟨exists_normalizeHex_iff, fun s => normalizeHex_of_not_mem, fun s m => normalizeHex_bounds,
    by decide +kernel, fun s m ch d => normalizeHex_append_singleton, normalizeHex_map_toUpper, rfl, rfl,
    ?_, ?_⟩
  · exact normalizeHex_eq_ok_iff.mpr ⟨[10, 11, 12], by decide +kernel, by decide⟩
  · exact normalizeHex_eq_ok_iff.mpr ⟨[10, 11, 12], by decide +kernel, by decide⟩

end Sys2Proof.Machine
end

section
/-!
The hex output (44_host_boundary.md R203): the characters are the digits of the digest in base 16, most
significant first, and reading them as hex digits gives the digest back.
-/
namespace Sys2Proof.Machine

/-- The digits that R203 prints with. -/
def outputDigits : List Char := "0123456789abcdef".toList

theorem getElem?_outputDigits (d : BitVec 4) : outputDigits[d.toNat]? = some (hexChar d) := by
  revert d
  decide +kernel

theorem hexDigit?_hexChar (d : BitVec 4) : hexDigit? (hexChar d) = some d.toNat := by
  revert d
  decide +kernel

theorem hexChar_mem (d : BitVec 4) : hexChar d ∈ outputDigits :=
  List.mem_of_getElem? (getElem?_outputDigits d)

/-- Digit `k` of `d` in base 16, counted from the most significant. -/
def nibbleAt (d : Digest) (k : Nat) : BitVec 4 := d.extractLsb' (252 - 4 * k) 4

theorem toNat_nibbleAt (d : Digest) (k : Nat) :
    (nibbleAt d k).toNat = d.toNat / 2 ^ (252 - 4 * k) % 16 := by
  rw [nibbleAt, BitVec.extractLsb'_toNat, Nat.shiftRight_eq_div_pow]

theorem hexOut_eq_map (d : Digest) : hexOut d = (List.range 64).map (hexChar ∘ nibbleAt d) := rfl

theorem length_hexOut (d : Digest) : (hexOut d).length = 64 := by
  rw [hexOut_eq_map, List.length_map, List.length_range]

theorem getElem?_hexOut (d : Digest) {k : Nat} (hk : k < 64) :
    (hexOut d)[k]? = outputDigits[(nibbleAt d k).toNat]? := by
  rw [getElem?_outputDigits, hexOut_eq_map, List.getElem?_map, List.getElem?_range hk]
  rfl

theorem hexOut_subset (d : Digest) : ∀ ch ∈ hexOut d, ch ∈ outputDigits := by
  intro ch hch
  rw [hexOut_eq_map, List.mem_map] at hch
  obtain ⟨k, -, rfl⟩ := hch
  exact hexChar_mem _

theorem hexDigits?_hexOut (d : Digest) :
    hexDigits? (hexOut d) = some ((List.range 64).map fun k => (nibbleAt d k).toNat) := by
  rw [hexDigits?_eq_some_iff, hexOut_eq_map, List.map_map, List.map_map]
  exact List.map_congr_left fun k _ => hexDigit?_hexChar _

/-- The first `n` digits are the number without its last `64 - n` digits. -/
theorem ofDigits_nibbles (d : Digest) {n : Nat} (hn : n ≤ 64) :
    ofDigits 16 ((List.range n).map fun k => (nibbleAt d k).toNat) = d.toNat / 2 ^ (256 - 4 * n) := by
  induction n with
  | zero => exact (Nat.div_eq_of_lt d.isLt).symm
  | succ n ih =>
    have hpos : 256 - 4 * n = 252 - 4 * n + 4 := by omega
    have hsucc : 256 - 4 * (n + 1) = 252 - 4 * n := by omega
    rw [List.range_succ, List.map_append, List.map_singleton, ofDigits_append_singleton,
      ih (by omega), toNat_nibbleAt, hpos, hsucc, pow_add, ← Nat.div_div_eq_div_mul]
    exact Nat.div_add_mod _ 16

theorem ofDigits_hexOut (d : Digest) : (hexDigits? (hexOut d)).map (ofDigits 16) = some d.toNat := by
  rw [hexDigits?_hexOut, Option.map_some, ofDigits_nibbles d (Nat.le_refl 64)]
  exact congrArg some (Nat.div_one _)

/-- Settles O58: each character is a digit of the digest in base 16, and the digits make the number. -/
theorem hexOutput : Obligations.HexOutput :=
  ⟨fun d => ⟨length_hexOut d, fun _ => getElem?_hexOut d, hexOut_subset d, ofDigits_hexOut d⟩,
    by decide +kernel⟩

end Sys2Proof.Machine
end

section
/-!
Bit strings as integers (44_host_boundary.md R200), and the block split of a message (R205) as the loop of
the source's algorithm makes it: the trailing 512 bits first, then the remainder.
-/
namespace Sys2Proof.Machine

/-! ### The integer of a bit string -/

theorem bitsValue_eq_ofDigits (bits : List Bool) : bitsValue bits = ofDigits 2 (bits.map Bool.toNat) := by
  rw [bitsValue, ofDigits, List.foldl_map]

theorem bitsValue_append (xs ys : List Bool) :
    bitsValue (xs ++ ys) = bitsValue xs * 2 ^ ys.length + bitsValue ys := by
  simp only [bitsValue_eq_ofDigits, List.map_append, ofDigits_append, List.length_map]

theorem bitsValue_lt (bits : List Bool) : bitsValue bits < 2 ^ bits.length := by
  rw [bitsValue_eq_ofDigits, ← List.length_map (f := Bool.toNat)]
  refine ofDigits_lt (by decide) fun d hd => ?_
  obtain ⟨b, -, rfl⟩ := List.mem_map.mp hd
  exact b.toNat_lt

theorem bitsValue_replicate_false (n : Nat) : bitsValue (List.replicate n false) = 0 := by
  rw [bitsValue_eq_ofDigits, List.map_replicate, ofDigits_eq_nat_ofDigits, List.reverse_replicate]
  exact Nat.ofDigits_replicate_zero

theorem bitsValue_append_shiftRight (xs ys : List Bool) :
    bitsValue (xs ++ ys) >>> ys.length = bitsValue xs := by
  rw [Nat.shiftRight_eq_div_pow, bitsValue_append, Nat.mul_comm, Nat.mul_add_div (Nat.two_pow_pos _),
    Nat.div_eq_of_lt (bitsValue_lt ys), Nat.add_zero]

theorem bitsValue_append_mod (xs ys : List Bool) :
    bitsValue (xs ++ ys) % 2 ^ ys.length = bitsValue ys := by
  rw [bitsValue_append, Nat.mul_comm, Nat.mul_add_mod, Nat.mod_eq_of_lt (bitsValue_lt ys)]

/-! ### The blocks of a message -/

/-- The message of a bit string (R200). -/
def messageOf (bits : List Bool) : Message := { value := bitsValue bits, length := bits.length }

/-- The blocks of a message, the trailing one first (R205). -/
def messageBlocks (m : Message) : List Word512 :=
  (List.range (blockCount m)).map fun j => messageBlock m (j + 1)

/-- The commands that absorb blocks. -/
def blockCommands (blocks : List Word512) : List (CmdWord × Word512) :=
  blocks.map fun b => (encode .block, b)

theorem messageCommands_eq (m : Message) :
    messageCommands m
      = blockCommands (messageBlocks m) ++ [(encode (.last (tailLength m)), tailValue m)] := by
  rw [blockCommands, messageBlocks, List.map_map]
  rfl

theorem messageBlocks_of_length_lt {bits : List Bool} (h : bits.length < 512) :
    messageBlocks (messageOf bits) = [] := by
  rw [messageBlocks, blockCount, messageOf, Nat.div_eq_of_lt h]
  rfl

theorem messageBlock_append_one (xs : List Bool) {block : List Bool} (hlen : block.length = 512) :
    messageBlock (messageOf (xs ++ block)) 1 = blockOfBits block := by
  have hmod := bitsValue_append_mod xs block
  rw [hlen] at hmod
  exact congrArg (BitVec.ofNat 512) hmod

theorem messageBlock_append_succ (xs : List Bool) {block : List Bool} (hlen : block.length = 512)
    (j : Nat) :
    messageBlock (messageOf (xs ++ block)) (j + 2) = messageBlock (messageOf xs) (j + 1) := by
  have hvalue := bitsValue_append_shiftRight xs block
  have hpos : 512 * (j + 2 - 1) = 512 + 512 * (j + 1 - 1) := by omega
  rw [hlen] at hvalue
  rw [messageBlock, messageBlock, messageOf, messageOf, hpos, Nat.shiftRight_add, hvalue]

theorem messageBlocks_append (xs : List Bool) {block : List Bool} (hlen : block.length = 512) :
    messageBlocks (messageOf (xs ++ block)) = blockOfBits block :: messageBlocks (messageOf xs) := by
  have hcount : blockCount (messageOf (xs ++ block)) = blockCount (messageOf xs) + 1 := by
    simp [blockCount, messageOf, hlen]
  rw [messageBlocks, hcount, List.range_succ_eq_map, List.map_cons, List.map_map,
    messageBlock_append_one xs hlen]
  exact congrArg _ (List.map_congr_left fun j _ => messageBlock_append_succ xs hlen j)

/-! ### The remainder of a message -/

/-- The bits before the blocks (R205: the first `r` bits of the message). -/
def remainder (bits : List Bool) : List Bool := bits.take (bits.length % 512)

theorem length_remainder (bits : List Bool) : (remainder bits).length = bits.length % 512 :=
  List.length_take_of_le (Nat.mod_le _ _)

theorem length_remainder_lt (bits : List Bool) : (remainder bits).length < 512 := by
  rw [length_remainder]
  exact Nat.mod_lt _ (by decide)

theorem remainder_of_length_lt {bits : List Bool} (h : bits.length < 512) : remainder bits = bits := by
  rw [remainder, Nat.mod_eq_of_lt h, List.take_length]

theorem remainder_append (xs : List Bool) {block : List Bool} (hlen : block.length = 512) :
    remainder (xs ++ block) = remainder xs := by
  rw [remainder, remainder, List.length_append, hlen, Nat.add_mod_right,
    List.take_append_of_le_length (Nat.mod_le _ _)]

theorem toNat_tailLength_messageOf (bits : List Bool) :
    (tailLength (messageOf bits)).toNat = (remainder bits).length := by
  rw [length_remainder]
  exact (toNat_intToBits _ 9).trans (Nat.mod_mod _ _)

theorem tailValue_messageOf (bits : List Bool) :
    tailValue (messageOf bits) = blockOfBits (remainder bits) := by
  have hrest : (bits.drop (bits.length % 512)).length = 512 * (bits.length / 512) := by
    rw [List.length_drop]
    omega
  have hvalue := bitsValue_append_shiftRight (remainder bits) (bits.drop (bits.length % 512))
  rw [remainder, List.take_append_drop, hrest] at hvalue
  rw [tailValue, blockCount, messageOf, hvalue]
  rfl

theorem toNat_blockOfBits {bits : List Bool} (h : bits.length ≤ 512) :
    (blockOfBits bits).toNat = bitsValue bits :=
  bitsToInt_intToBits ((bitsValue_lt bits).trans_le (pow_le_pow_right₀ one_le_two h))

/-- The bits of the padding block: the 1 bit weighs more than the remainder after it. -/
theorem bitsValue_paddedBits (bits : List Bool) :
    bitsValue (paddedBits bits) = 2 ^ bits.length + bitsValue bits := by
  have hone : bitsValue [true] = 1 := rfl
  rw [paddedBits, bitsValue_append, bitsValue_replicate_false, Nat.zero_mul, Nat.zero_add,
    ← List.singleton_append, bitsValue_append, hone, Nat.one_mul]

theorem length_paddedBits {bits : List Bool} (h : bits.length < 512) :
    (paddedBits bits).length = 512 := by
  simp only [paddedBits, List.length_append, List.length_replicate, List.length_cons]
  omega

/-- The padded block of LAST is the padding block of the source (R182). -/
theorem padded_eq_blockOfBits {bits : List Bool} {len : BitVec 9} (hlen : len.toNat = bits.length) :
    padded len (blockOfBits bits) = blockOfBits (paddedBits bits) := by
  have hlt : bits.length < 512 := hlen ▸ len.isLt
  refine BitVec.eq_of_toNat_eq ?_
  rw [toNat_padded, toNat_tail, hlen, toNat_blockOfBits hlt.le, Nat.mod_eq_of_lt (bitsValue_lt bits),
    toNat_blockOfBits (length_paddedBits hlt).le, bitsValue_paddedBits]

end Sys2Proof.Machine
end

section
/-!
The source's algorithm (44_host_boundary.md R207) on the blocks and the remainder of a message.
-/
namespace Sys2Proof.Machine

theorem referenceLoop_append (fuel : Nat) (xs : List Bool) {block : List Bool}
    (hlen : block.length = 512) (r : Running) :
    referenceLoop (fuel + 1) (xs ++ block) r = referenceLoop fuel xs (r.absorb (blockOfBits block)) := by
  have hcut : (xs ++ block).length - 512 = xs.length := by simp [hlen]
  rw [referenceLoop, if_neg (by simp [hlen])]
  simp only [hcut, List.take_left, List.drop_left]

theorem referenceLoop_eq_of_length_lt (fuel : Nat) {bits : List Bool} (h : bits.length < 512)
    (r : Running) :
    referenceLoop fuel bits r
      = (remainder bits, (messageBlocks (messageOf bits)).foldl Running.absorb r) := by
  rw [remainder_of_length_lt h, messageBlocks_of_length_lt h, List.foldl_nil]
  cases fuel with
  | zero => rfl
  | succ fuel => rw [referenceLoop, if_pos h]

theorem referenceLoop_eq {fuel : Nat} {bits : List Bool} (hfuel : bits.length ≤ fuel) (r : Running) :
    referenceLoop fuel bits r
      = (remainder bits, (messageBlocks (messageOf bits)).foldl Running.absorb r) := by
  induction fuel generalizing bits r with
  | zero => exact referenceLoop_eq_of_length_lt 0 (by omega) r
  | succ fuel ih =>
    rcases Nat.lt_or_ge bits.length 512 with hshort | hlong
    · exact referenceLoop_eq_of_length_lt (fuel + 1) hshort r
    · obtain ⟨xs, block, rfl, hlen⟩ : ∃ xs block, xs ++ block = bits ∧ block.length = 512 :=
        ⟨_, _, List.take_append_drop (bits.length - 512) bits, by rw [List.length_drop]; omega⟩
      have hxs : xs.length ≤ fuel := by
        rw [List.length_append] at hfuel
        omega
      rw [referenceLoop_append fuel xs hlen, ih hxs, remainder_append xs hlen,
        messageBlocks_append xs hlen, List.foldl_cons]

/-- `H` after the padding step and the two finalization compressions of LAST (R174), from the values that
the message's blocks left. -/
def Running.finalize (r : Running) (len : BitVec 9) (d : Word512) : Word512 :=
  compress zero512
    (compress zero512 (compress r.n r.h (padded len d)) (add512 r.n (lenBits len)))
    (add512 r.sigma (padded len d))

theorem referenceFinal_remainder (bits : List Bool) (r : Running) :
    referenceFinal (remainder bits) r
      = r.finalize (tailLength (messageOf bits)) (tailValue (messageOf bits)) := by
  have hlen := toNat_tailLength_messageOf bits
  rw [Running.finalize, tailValue_messageOf, padded_eq_blockOfBits hlen, lenBits_eq_intToBits, hlen,
    add512_eq, add512_eq]
  rfl

/-- The reference digest in the terms of the commands of R205. -/
theorem referenceHash_eq (bits : List Bool) :
    referenceHash bits
      = (((messageBlocks (messageOf bits)).foldl Running.absorb .start).finalize
          (tailLength (messageOf bits)) (tailValue (messageOf bits))).extractLsb' 256 256 := by
  rw [referenceHash, referenceLoop_eq (Nat.le_refl _), ← referenceFinal_remainder]

end Sys2Proof.Machine
end

section
/-!
Whole commands and the clock edges that run them (20_memory.md R61, 70_reset_and_hazards.md R245, R246):
what a command leaves unchanged, what each kind of edge does, and that the edges of a command, from its
acceptance to its completion, are the command.
-/
namespace Sys2Proof.Machine

/-! ### What a command leaves unchanged -/

theorem command_next {s t : State} {c : CmdWord} {d : Word512} (hs : s.resetSeen = true)
    (h : s.command c d = .next t) : (completed { s.accept c d with wait := 0 }).finish = t := by
  rw [command_eq hs] at h
  exact Host.Outcome.next.inj h

theorem phaseAfter_acceptedPhase (c : CmdWord) (p : Phase) :
    phaseAfter c (acceptedPhase c p) = phaseAfter c p := by
  unfold phaseAfter acceptedPhase
  cases decode c with
  | error e => rfl
  | ok i => cases i <;> rfl

theorem phaseAfter_ne_finalizing (c : CmdWord) {p : Phase} (hp : p ≠ .finalizing) :
    phaseAfter c p ≠ .finalizing := by
  unfold phaseAfter
  split
  · decide
  · decide
  · exact hp

theorem command_phase {s t : State} {c : CmdWord} {d : Word512} (hs : s.resetSeen = true)
    (h : s.command c d = .next t) : t.phase = phaseAfter c s.phase := by
  rw [← command_next hs h, State.finish_phase, completed_phase]
  exact phaseAfter_acceptedPhase c s.phase

theorem command_atRest {s t : State} {c : CmdWord} {d : Word512} (hs : AtRest s)
    (h : s.command c d = .next t) : AtRest t := by
  have hphase := command_phase hs.reset h
  have ht := command_next hs.reset h
  obtain ⟨-, -, -, -, hreset, -⟩ := completed_frame { s.accept c d with wait := 0 }
  refine ⟨?_, ?_, hphase ▸ phaseAfter_ne_finalizing c hs.phase⟩
  · rw [← ht, State.finish_resetSeen, hreset]
    exact hs.reset
  · rw [← ht, State.finish_busy]

/-! ### One edge -/

theorem step_of_reset {s : State} (hrst : s.ports.rst = true) :
    step s = .next (s.popInput.applyReset tables) := by
  simp only [step, clockEdge, clockEdgeOf, hrst, if_true]

theorem step_of_accept {s : State} (hs : AtRest s) (hrst : s.ports.rst = false)
    (hvalid : s.ports.cmdValid = true) :
    step s = .next (s.popInput.accept s.ports.cmd s.ports.din) := by
  simp [step, clockEdge_eq hs.reset, hrst, hs.idle, hvalid]

section
variable {s : State} (hreset : s.resetSeen = true) (hbusy : s.busy = true) (hrst : s.ports.rst = false)
include hreset hbusy hrst

theorem step_of_wait (hwait : s.wait ≠ 0) : step s = .next s.popInput.tick := by
  simp [step, clockEdge_eq hreset, hrst, hbusy, hwait]

theorem step_of_complete (hwait : s.wait = 0) : step s = .next (completed s.popInput).finish := by
  simp [step, clockEdge_eq hreset, hrst, hbusy, hwait]

end

theorem completed_inputs (s : State) : (completed s).inputs = s.inputs := by
  obtain ⟨-, -, -, hinputs, -, -⟩ := completed_frame s
  exact hinputs

/-- Every edge consumes the host's drive of that edge (log 1). -/
theorem step_inputs {s t : State} (h : step s = .next t) : t.inputs = s.inputs.tail := by
  rcases hs : s.resetSeen with _ | _
  · rw [step, clockEdge_before hs] at h
    split at h
    · simp [← Host.Outcome.next.inj h]
    · split at h
      · cases h
      · simp [← Host.Outcome.next.inj h]
  · rw [step, clockEdge_eq hs, Host.Outcome.next.injEq] at h
    subst h
    simp [apply_ite State.inputs, completed_inputs]

/-! ### The host's drive -/

/-- `s` with the host's drive of the coming edges. -/
def State.facing (s : State) (drive : List Ports) : State := { s with inputs := drive }

theorem unlessDone_facing (s t : State) (drive : List Ports) :
    (s.facing drive).unlessDone (t.facing drive) = (s.unlessDone t).facing drive := by
  by_cases hdone : s.phase = .done
  · rw [unlessDone_done hdone, unlessDone_done (s := s.facing drive) hdone]
    rfl
  · rw [unlessDone_else hdone, unlessDone_else (s := s.facing drive) hdone]

theorem written_facing (i : Instr) (s : State) (drive : List Ports) :
    written i (s.facing drive) = (written i s).facing drive := by
  cases i with
  | nop => rfl
  | init => rfl
  | block => exact unlessDone_facing s (s.absorb tables s.dinLatch) drive
  | last len => exact unlessDone_facing s (s.finalizeMessage tables len s.dinLatch) drive

/-- Completion reads nothing of the host's drive. -/
theorem completed_facing (s : State) (drive : List Ports) :
    completed (s.facing drive) = (completed s).facing drive := by
  have hlatch : (s.facing drive).cmdLatch = s.cmdLatch := rfl
  rw [completed, completed, hlatch]
  cases decode s.cmdLatch with
  | error e => rfl
  | ok i => exact written_facing i s drive

/-! ### The edges of a command in execution -/

/-- A command in execution, `wait` edges before the completing one, and the drive it faces. -/
def State.awaiting (s : State) (wait : Nat) (drive : List Ports) : State :=
  { s with wait := wait, inputs := drive }

theorem step_offer {s : State} (hs : AtRest s) (c : CmdWord) (d : Word512) (rest : List Ports) :
    step (s.facing (Ports.offer c d :: rest))
      = .next ((s.accept c d).awaiting (acceptedWait c s.phase) rest) :=
  step_of_accept ⟨hs.reset, hs.idle, hs.phase⟩ rfl rfl

section
variable {s : State} (hreset : s.resetSeen = true) (hbusy : s.busy = true)
include hreset hbusy

theorem step_waiting {p : Ports} (hp : p.rst = false) (w : Nat) (rest : List Ports) :
    step (s.awaiting (w + 1) (p :: rest)) = .next (s.awaiting w rest) :=
  step_of_wait (s := s.awaiting (w + 1) (p :: rest)) hreset hbusy hp (Nat.succ_ne_zero w)

theorem step_completing {p : Ports} (hp : p.rst = false) (rest : List Ports) :
    step (s.awaiting 0 (p :: rest)) = .next (completed (s.awaiting 0 rest)).finish :=
  step_of_complete (s := s.awaiting 0 (p :: rest)) hreset hbusy hp rfl

theorem run_waiting {busy : List Ports} (hnoReset : NoReset busy) (rest : List Ports) :
    core.run busy.length (s.awaiting busy.length (busy ++ rest)) = .next (s.awaiting 0 rest) := by
  induction busy with
  | nil => rfl
  | cons p ps ih =>
    obtain ⟨hp, hps⟩ := List.forall_mem_cons.mp hnoReset
    exact (run_succ (step_waiting hreset hbusy hp _ _) _).trans (ih hps)

omit hreset in
theorem cmdReady_awaiting (w : Nat) (drive : List Ports) : cmdReady (s.awaiting w drive) = false := by
  simp [cmdReady, State.awaiting, hbusy]

theorem firstReady_waiting {busy : List Ports} (hnoReset : NoReset busy) (w : Nat) (rest : List Ports)
    (k : Nat) :
    firstReady (busy.length + k) (s.awaiting (busy.length + w) (busy ++ rest))
      = firstReady k (s.awaiting w rest) := by
  induction busy with
  | nil => rw [List.length_nil, Nat.zero_add, Nat.zero_add, List.nil_append]
  | cons p ps ih =>
    obtain ⟨hp, hps⟩ := List.forall_mem_cons.mp hnoReset
    rw [List.length_cons, Nat.succ_add, Nat.succ_add]
    exact (firstReady_succ (cmdReady_awaiting hbusy _ _) (step_waiting hreset hbusy hp _ _) _).trans
      (ih hps)

end

/-! ### The whole of a command's edges -/

/-- The edges of an execution: those it waits for, then the completing one. -/
theorem exists_waiting_and_completing {busy : List Ports} {w : Nat} (hnoReset : NoReset busy)
    (hlen : busy.length = w + 1) :
    ∃ ps p, busy = ps ++ [p] ∧ NoReset ps ∧ p.rst = false ∧ ps.length = w := by
  obtain rfl | ⟨ps, p, rfl⟩ := List.eq_nil_or_concat' busy
  · cases hlen
  · obtain ⟨hps, hp⟩ := List.forall_mem_append.mp hnoReset
    exact ⟨ps, p, rfl, hps, hp p (List.mem_singleton_self p), by simpa using hlen⟩

/-- The edges of `drive` take the core from `s` to `t`, whatever the host drives after them. -/
def DrivesTo (drive : List Ports) (s t : State) : Prop :=
  ∀ rest, core.run drive.length (s.facing (drive ++ rest)) = .next (t.facing rest)

theorem drivesTo_nil (s : State) : DrivesTo [] s s := fun _ => rfl

theorem DrivesTo.append {first second : List Ports} {s t u : State} (h₁ : DrivesTo first s t)
    (h₂ : DrivesTo second t u) : DrivesTo (first ++ second) s u := by
  intro rest
  rw [List.length_append, List.append_assoc, run_add _ (h₁ _)]
  exact h₂ rest

section
variable {s t : State} {c : CmdWord} {d : Word512} (hs : AtRest s) (h : s.command c d = .next t)
  {busy : List Ports} (hnoReset : NoReset busy) (hlen : busy.length = acceptedWait c s.phase + 1)
include hs h

theorem step_completing_command {p : Ports} (hp : p.rst = false) (rest : List Ports) :
    step ((s.accept c d).awaiting 0 (p :: rest)) = .next (t.facing rest) := by
  rw [step_completing (s := s.accept c d) hs.reset rfl hp, ← command_next hs.reset h]
  exact congrArg (fun u => Host.Outcome.next (State.finish u))
    (completed_facing { s.accept c d with wait := 0 } rest)

include hnoReset hlen

theorem run_command (rest : List Ports) :
    core.run busy.length ((s.accept c d).awaiting (acceptedWait c s.phase) (busy ++ rest))
      = .next (t.facing rest) := by
  obtain ⟨ps, p, rfl, hps, hp, hwait⟩ := exists_waiting_and_completing hnoReset hlen
  rw [← hwait, List.length_append, List.append_assoc]
  exact (run_add 1 (run_waiting (s := s.accept c d) hs.reset rfl hps _)).trans
    ((run_one _).trans (step_completing_command hs h hp rest))

theorem firstReady_command {rest : List Ports} (hrst : (rest.headD .idle).rst = false) (k : Nat) :
    firstReady (busy.length + k)
        ((s.accept c d).awaiting (acceptedWait c s.phase) (busy ++ rest))
      = some (status t, digest t) := by
  obtain ⟨ps, p, rfl, hps, hp, hwait⟩ := exists_waiting_and_completing hnoReset hlen
  have hready : cmdReady (t.facing rest) = true := by
    simp only [cmdReady, State.facing, State.ports, hrst, (command_atRest hs h).idle, Bool.not_false,
      Bool.and_self]
  have hstep := step_completing_command hs h hp rest
  rw [← hwait, List.length_append, List.append_assoc, Nat.add_assoc, List.length_singleton,
    Nat.add_comm 1]
  refine (firstReady_waiting (s := s.accept c d) hs.reset rfl hps 0 _ (k + 1)).trans ?_
  exact (firstReady_succ (cmdReady_awaiting rfl _ _) hstep k).trans (firstReady_ready hready k)

theorem drivesTo_offer : DrivesTo (Ports.offer c d :: busy) s t := fun rest =>
  (run_succ (step_offer hs c d _) _).trans (run_command hs h hnoReset hlen rest)

end

/-! ### The host's drive for commands in order -/

theorem noReset_replicate_idle (n : Nat) : NoReset (List.replicate n .idle) := fun p hp => by
  rw [List.eq_of_mem_replicate hp]
  rfl

theorem drivesTo_commandDrive {s t : State} {c : CmdWord} {d : Word512} (hs : AtRest s)
    (hwait : acceptedWait c s.phase = acceptedWait c .accumulating) (h : s.command c d = .next t) :
    DrivesTo (commandDrive c d) s t :=
  drivesTo_offer hs h (noReset_replicate_idle _) (by rw [List.length_replicate, wordLatency, hwait])

theorem driveOf_append (first second : List (CmdWord × Word512)) :
    driveOf (first ++ second) = driveOf first ++ driveOf second := by
  induction first with
  | nil => rfl
  | cons cd rest ih => rw [List.cons_append, driveOf, driveOf, ih, List.append_assoc]

/-- Only a LAST ends ACCUMULATING (R176). -/
theorem phaseAfter_accumulating {c : CmdWord} (hc : isLastWord c = false) :
    phaseAfter c .accumulating = .accumulating := by
  unfold isLastWord at hc
  unfold phaseAfter
  cases hdec : decode c with
  | error e => rfl
  | ok i => cases i <;> simp_all

theorem drivesTo_driveOf {cmds : List (CmdWord × Word512)} (hcmds : ∀ cd ∈ cmds, isLastWord cd.1 = false)
    {s t : State} (hs : AtRest s) (hphase : s.phase = .accumulating)
    (h : runCommands cmds s = .next t) : DrivesTo (driveOf cmds) s t := by
  induction cmds generalizing s with
  | nil =>
    obtain rfl := Host.Outcome.next.inj h
    exact drivesTo_nil s
  | cons cd rest ih =>
    obtain ⟨c, d⟩ := cd
    obtain ⟨hc, hrest⟩ := List.forall_mem_cons.mp hcmds
    have hu := command_eq hs.reset c d
    rw [runCommands_cons hu] at h
    refine (drivesTo_commandDrive hs (by rw [hphase]) hu).append
      (ih hrest (command_atRest hs hu) ?_ h)
    rw [command_phase hs.reset hu, hphase, phaseAfter_accumulating hc]

end Sys2Proof.Machine
end

section
/-!
The observation of a run (70_reset_and_hazards.md R250): edges that offer no LAST are passed over, a LAST
that completes is observed at its completion, and one that a reset abandons in the state after reset.
-/
namespace Sys2Proof.Machine

/-- An edge at which the host offers no LAST that a core could accept. -/
def OffersNoLast (p : Ports) : Prop := p.rst = true ∨ p.cmdValid = false ∨ isLastWord p.cmd = false

theorem offersNoLast_ports {s : State} {n : Nat} (h : ∀ q ∈ s.inputs.take (n + 1), OffersNoLast q) :
    OffersNoLast s.ports := by
  unfold State.ports
  cases hin : s.inputs with
  | nil => exact .inr (.inl rfl)
  | cons p ps => exact h p (by simp [hin])

theorem mem_take_tail {α : Type} {l : List α} {n : Nat} {q : α} (h : q ∈ l.tail.take n) :
    q ∈ l.take (n + 1) := by
  cases l with
  | nil => simp at h
  | cons p ps => exact List.mem_cons_of_mem p h

theorem run_succ_next {a : Nat} {s t : State} (h : core.run (a + 1) s = .next t) :
    ∃ u, step s = .next u ∧ core.run a u = .next t := by
  cases hst : step s with
  | next u => exact ⟨u, rfl, (run_succ hst a).symm.trans h⟩
  | fault r =>
    have hst' : core.step s = .fault r := hst
    simp [Host.Core.run, hst'] at h
  | refused r =>
    have hst' : core.step s = .refused r := hst
    simp [Host.Core.run, hst'] at h

theorem observation_run {a : Nat} {s t : State} (h : core.run a s = .next t)
    (hno : ∀ q ∈ s.inputs.take a, OffersNoLast q) (k : Nat) :
    observation (a + k) s = observation k t := by
  induction a generalizing s with
  | zero =>
    obtain rfl := Host.Outcome.next.inj h
    rw [Nat.zero_add]
  | succ a ih =>
    obtain ⟨u, hst, hrun⟩ := run_succ_next h
    rw [Nat.succ_add, observation_skip (acceptsLast_false (offersNoLast_ports hno)) hst]
    refine ih hrun fun q hq => hno q (mem_take_tail ?_)
    rwa [← step_inputs hst]

theorem observation_eq_none {s : State} (hno : ∀ q ∈ s.inputs, OffersNoLast q) (k : Nat) :
    observation k s = none := by
  induction k generalizing s with
  | zero => rfl
  | succ k ih =>
    cases hst : step s with
    | next t =>
      have hports := offersNoLast_ports fun q hq => hno q (List.mem_of_mem_take (i := 1) hq)
      rw [observation_skip (acceptsLast_false hports) hst]
      refine ih fun q hq => hno q (List.mem_of_mem_tail ?_)
      rwa [← step_inputs hst]
    | fault r => simp only [observation, hst]
    | refused r => simp only [observation, hst]

theorem isLastWord_encode_last (len : BitVec 9) : isLastWord (encode (.last len)) = true := by
  simp only [isLastWord, decode_encode]

/-- From the acceptance of a LAST on, the observation is that of the first point with `cmd_ready` = 1. -/
theorem observation_offer_last {s : State} (hs : AtRest s) (len : BitVec 9) (d : Word512)
    (rest : List Ports) (k : Nat) :
    observation (k + 1) (s.facing (Ports.offer (encode (.last len)) d :: rest))
      = firstReady k
          ((s.accept (encode (.last len)) d).awaiting (acceptedWait (encode (.last len)) s.phase) rest) := by
  refine observation_accept ?_ (step_offer hs _ _ _) k
  simp [acceptsLast, cmdReady, State.facing, State.ports, Ports.offer, hs.reset, hs.idle,
    isLastWord_encode_last]

/-! ### Reset -/

theorem step_facing_reset (s : State) {p : Ports} (hp : p.rst = true) (rest : List Ports) :
    step (s.facing (p :: rest)) = .next (State.reset.facing rest) :=
  step_of_reset (s := s.facing (p :: rest)) hp

theorem step_awaiting_reset (s : State) (w : Nat) {p : Ports} (hp : p.rst = true) (rest : List Ports) :
    step (s.awaiting w (p :: rest)) = .next (State.reset.facing rest) :=
  step_facing_reset { s with wait := w } hp rest

theorem cmdReady_facing_of_rst (s : State) {p : Ports} (hp : p.rst = true) (rest : List Ports) :
    cmdReady (s.facing (p :: rest)) = false := by
  simp [cmdReady, State.facing, State.ports, hp]

theorem cmdReady_reset_facing {rest : List Ports} (hrst : (rest.headD .idle).rst = false) :
    cmdReady (State.reset.facing rest) = true := by
  simp only [cmdReady, State.facing, State.ports, hrst, State.reset_busy, Bool.not_false, Bool.and_self]

theorem status_reset_facing (rest : List Ports) : status (State.reset.facing rest) = 0x00 :=
  (rfl : _ = status State.reset).trans (by decide)

theorem digest_reset_facing (rest : List Ports) : digest (State.reset.facing rest) = 0 := digest_reset

theorem firstReady_in_reset {resets : List Ports} (hresets : ∀ q ∈ resets, q.rst = true) (s : State)
    (rest : List Ports) {k : Nat} (hk : k < resets.length) :
    firstReady k (s.facing (resets ++ rest)) = none := by
  induction resets generalizing s k with
  | nil => cases hk
  | cons q qs ih =>
    obtain ⟨hq, hqs⟩ := List.forall_mem_cons.mp hresets
    have hready := cmdReady_facing_of_rst s hq (qs ++ rest)
    cases k with
    | zero => exact firstReady_zero hready
    | succ k =>
      exact (firstReady_succ hready (step_facing_reset s hq _) k).trans
        (ih hqs State.reset (Nat.lt_of_succ_lt_succ hk))

section
variable {s : State} (hs : AtRest s) (len : BitVec 9) (d : Word512) (rest : List Ports)
include hs

/-- A LAST that a reset abandons is observed in the state after reset. -/
theorem observation_abandoned {drive : List Ports} {p : Ports} {k : Nat} (hnoReset : NoReset drive)
    (hlen : drive.length ≤ acceptedWait (encode (.last len)) s.phase) (hp : p.rst = true)
    (hrst : (rest.headD .idle).rst = false) (hk : drive.length + 2 ≤ k) :
    observation k (s.facing (Ports.offer (encode (.last len)) d :: (drive ++ p :: rest)))
      = some (0x00, 0) := by
  obtain ⟨w, hw⟩ := Nat.exists_eq_add_of_le hlen
  obtain ⟨j, rfl⟩ : ∃ j, k = drive.length + (j + 1) + 1 := ⟨k - drive.length - 2, by omega⟩
  rw [observation_offer_last hs, hw]
  refine (firstReady_waiting (s := s.accept _ d) hs.reset rfl hnoReset w _ (j + 1)).trans ?_
  refine (firstReady_succ (cmdReady_awaiting rfl w _) (step_awaiting_reset _ w hp rest) j).trans ?_
  rw [firstReady_ready (cmdReady_reset_facing hrst), status_reset_facing, digest_reset_facing]

theorem observation_kept_in_reset {resets : List Ports} {k : Nat} (hresets : ∀ q ∈ resets, q.rst = true)
    (hk : k ≤ resets.length) :
    observation k (s.facing (Ports.offer (encode (.last len)) d :: (resets ++ rest))) = none := by
  cases k with
  | zero => rfl
  | succ k =>
    rw [observation_offer_last hs]
    exact firstReady_in_reset hresets { s.accept _ d with wait := acceptedWait _ s.phase } rest hk

/-- A LAST whose execution no reset abandons is observed at its completion. -/
theorem observation_completed {t : State} {busy : List Ports} {k : Nat}
    (h : s.command (encode (.last len)) d = .next t) (hnoReset : NoReset busy)
    (hlen : busy.length = acceptedWait (encode (.last len)) s.phase + 1)
    (hrst : (rest.headD .idle).rst = false) (hk : busy.length + 1 ≤ k) :
    observation k (s.facing (Ports.offer (encode (.last len)) d :: (busy ++ rest)))
      = some (status t, digest t) := by
  obtain ⟨j, rfl⟩ : ∃ j, k = busy.length + j + 1 := ⟨k - busy.length - 1, by omega⟩
  rw [observation_offer_last hs]
  exact firstReady_command hs h hnoReset hlen hrst j

end

end Sys2Proof.Machine
end

section
/-!
A message on the core (44_host_boundary.md R205, R207): at rest, the core holds the running values of the
source's loop after each block, and after LAST the result of its finalization.
-/
namespace Sys2Proof.Machine

/-- The core has absorbed the blocks that lead the source's loop to `r`, with no error. -/
structure Tracks (r : Running) (s : State) : Prop where
  atRest : AtRest s
  phase : s.phase = .accumulating
  err : s.err = false
  errcode : s.errcode = .none
  h : s.h = r.h
  n : s.n = r.n
  sigma : s.sigma = r.sigma

/-- The core has finished a message with `H` equal to `h`, with no error. -/
structure Finished (h : Word512) (s : State) : Prop where
  atRest : AtRest s
  phase : s.phase = .done
  err : s.err = false
  errcode : s.errcode = .none
  h : s.h = h

theorem Finished.dvalid {h : Word512} {s : State} (hs : Finished h s) : dvalid s = true := by
  simp [Machine.dvalid, hs.phase, hs.err]

theorem Finished.status {h : Word512} {s : State} (hs : Finished h s) : status s = 0x82 := by
  simp only [Machine.status, hs.dvalid, hs.phase, hs.err, hs.errcode, hs.atRest.idle]
  rfl

theorem Finished.digest {h : Word512} {s : State} (hs : Finished h s) :
    digest s = h.extractLsb' 256 256 := by
  rw [digest_of_done hs.phase, hs.h]

/-! ### Its commands -/

theorem command_init_tracks {s : State} (hs : AtRest s) (d : Word512) :
    ∃ t, s.command (encode .init) d = .next t ∧ Tracks .start t :=
  ⟨_, command_encode hs.reset .init d, command_atRest hs (command_encode hs.reset .init d),
    rfl, rfl, rfl, rfl, rfl, rfl⟩

theorem command_block_tracks {r : Running} {s : State} (hs : Tracks r s) (b : Word512) :
    ∃ t, s.command (encode .block) b = .next t ∧ Tracks (r.absorb b) t := by
  have hcommand := command_encode hs.atRest.reset .block b
  have hrest := command_atRest hs.atRest hcommand
  have hphase : acceptedPhase (encode .block) s.phase = .accumulating := hs.phase
  rw [written, unlessDone_else (by simp [hphase])] at hcommand hrest
  exact ⟨_, hcommand, hrest, by simpa using hphase, by simpa using hs.err, by simpa using hs.errcode,
    by simp [hs.h, hs.n, Running.absorb], by simp [hs.n, Running.absorb, add512_eq]; rfl,
    by simp [hs.sigma, Running.absorb, add512_eq]⟩

theorem command_last_finished {r : Running} {s : State} (hs : Tracks r s) (len : BitVec 9) (d : Word512) :
    ∃ t, s.command (encode (.last len)) d = .next t ∧ Finished (r.finalize len d) t := by
  have hcommand := command_encode hs.atRest.reset (.last len) d
  have hrest := command_atRest hs.atRest hcommand
  have hphase : acceptedPhase (encode (.last len)) s.phase = .finalizing := by
    simp only [hs.phase, acceptedPhase, decode_encode]
  rw [written, unlessDone_else (by simp [hphase])] at hcommand hrest
  exact ⟨_, hcommand, hrest, rfl, by simpa using hs.err, by simpa using hs.errcode,
    by simp [hs.h, hs.n, hs.sigma, Running.finalize]⟩

theorem runCommands_blocks_tracks (blocks : List Word512) {r : Running} {s : State} (hs : Tracks r s) :
    ∃ t, runCommands (blockCommands blocks) s = .next t ∧ Tracks (blocks.foldl Running.absorb r) t := by
  induction blocks generalizing r s with
  | nil => exact ⟨s, rfl, hs⟩
  | cons b rest ih =>
    obtain ⟨u, hblock, hu⟩ := command_block_tracks hs b
    obtain ⟨t, hrest, ht⟩ := ih hu
    exact ⟨t, (runCommands_cons hblock _).trans hrest, ht⟩

/-! ### Its edges -/

/-- The commands of a message before its LAST. -/
def absorbCommands (m : Message) : List (CmdWord × Word512) :=
  (encode .init, 0) :: blockCommands (messageBlocks m)

theorem hashCommands_eq (m : Message) :
    hashCommands m = absorbCommands m ++ [(encode (.last (tailLength m)), tailValue m)] := by
  rw [hashCommands, messageCommands_eq]
  rfl

theorem isLastWord_blockCommands (blocks : List Word512) :
    ∀ cd ∈ blockCommands blocks, isLastWord cd.1 = false := by
  intro cd hcd
  obtain ⟨b, -, rfl⟩ := List.mem_map.mp hcd
  exact (by decide : isLastWord (encode .block) = false)

theorem isLastWord_absorbCommands (m : Message) : ∀ cd ∈ absorbCommands m, isLastWord cd.1 = false :=
  List.forall_mem_cons.mpr ⟨rfl, isLastWord_blockCommands _⟩

theorem drivesTo_absorbCommands {s : State} (hs : AtRest s) (m : Message) :
    ∃ t, DrivesTo (driveOf (absorbCommands m)) s t
      ∧ Tracks ((messageBlocks m).foldl Running.absorb .start) t := by
  obtain ⟨u, hinit, hu⟩ := command_init_tracks hs 0
  obtain ⟨t, hblocks, ht⟩ := runCommands_blocks_tracks (messageBlocks m) hu
  exact ⟨t, (drivesTo_commandDrive hs rfl hinit).append
    (drivesTo_driveOf (isLastWord_blockCommands _) hu.atRest hu.phase hblocks), ht⟩

theorem offersNoLast_driveOf {cmds : List (CmdWord × Word512)}
    (hcmds : ∀ cd ∈ cmds, isLastWord cd.1 = false) : ∀ q ∈ driveOf cmds, OffersNoLast q := by
  induction cmds with
  | nil => exact fun q hq => absurd hq List.not_mem_nil
  | cons cd rest ih =>
    obtain ⟨c, d⟩ := cd
    obtain ⟨hc, hrest⟩ := List.forall_mem_cons.mp hcmds
    refine List.forall_mem_append.mpr
      ⟨List.forall_mem_cons.mpr ⟨.inr (.inr hc), fun q hq => ?_⟩, ih hrest⟩
    rw [List.eq_of_mem_replicate hq]
    exact .inr (.inl rfl)

/-- The edges that offer no LAST come before the observation. -/
theorem DrivesTo.observation {drive : List Ports} {s t : State} (h : DrivesTo drive s t)
    (hno : ∀ q ∈ drive, OffersNoLast q) (rest : List Ports) (k : Nat) :
    observation (drive.length + k) (s.facing (drive ++ rest)) = observation k (t.facing rest) :=
  observation_run (h rest) (fun q hq => hno q (by simpa [State.facing] using hq)) k

/-! ### Its run -/

theorem driveOf_hashCommands (m : Message) :
    driveOf (hashCommands m)
      = driveOf (absorbCommands m) ++ commandDrive (encode (.last (tailLength m))) (tailValue m) := by
  rw [hashCommands_eq, driveOf_append, driveOf, driveOf, List.append_nil]

/-- From a core at rest, the run of a message ends in its finished state, and is observed there. -/
theorem run_hashCommands {s : State} (hs : AtRest s) (m : Message) :
    ∃ t, DrivesTo (driveOf (hashCommands m)) s t
      ∧ Finished (((messageBlocks m).foldl Running.absorb .start).finalize (tailLength m) (tailValue m)) t
      ∧ ∀ rest : List Ports, (rest.headD .idle).rst = false →
          ∀ k, (driveOf (hashCommands m)).length ≤ k →
            observation k (s.facing (driveOf (hashCommands m) ++ rest)) = some (status t, digest t) := by
  obtain ⟨u, hdrive, hu⟩ := drivesTo_absorbCommands hs m
  obtain ⟨t, hlast, ht⟩ := command_last_finished hu (tailLength m) (tailValue m)
  have hwait : acceptedWait (encode (.last (tailLength m))) u.phase
      = acceptedWait (encode (.last (tailLength m))) .accumulating := by rw [hu.phase]
  rw [driveOf_hashCommands]
  refine ⟨t, hdrive.append (drivesTo_commandDrive hu.atRest hwait hlast), ht, fun rest hrst k hk => ?_⟩
  rw [List.length_append] at hk
  obtain ⟨j, rfl⟩ := Nat.exists_eq_add_of_le (Nat.le_of_add_right_le hk)
  rw [List.append_assoc, hdrive.observation (offersNoLast_driveOf (isLastWord_absorbCommands m))]
  exact observation_completed hu.atRest _ _ rest hlast (noReset_replicate_idle _)
    (by rw [List.length_replicate, wordLatency, hwait]) hrst (Nat.le_of_add_le_add_left hk)

/-- The words of R205 for a message of `n` bits. -/
theorem map_fst_messageCommands (v n : Nat) :
    (messageCommands { value := v, length := n }).map (·.1)
      = List.replicate (n / 512) (encode .block) ++ [encode (.last (intToBits (n % 512) 9))] := by
  rw [messageCommands_eq, List.map_append, blockCommands, List.map_map, List.map_singleton]
  refine congrArg (· ++ _)
    (List.eq_replicate_iff.mpr ⟨by simp [messageBlocks, blockCount], fun c hc => ?_⟩)
  obtain ⟨b, -, rfl⟩ := List.mem_map.mp hc
  rfl

/-- Settles O55: the core tracks the source's loop block by block, so LAST leaves the source's digest, and
the observation is that of the LAST's completion unless a reset comes first. -/
theorem messageDigestIsTheReferenceDigest : Obligations.MessageDigestIsTheReferenceDigest := by
  refine ⟨fun bits s rest hs => ?_,
    fun v => (map_fst_messageCommands v 511).trans (by decide),
    fun v => (map_fst_messageCommands v 512).trans (by decide),
    fun v => (map_fst_messageCommands v 513).trans (by decide),
    fun s len d drive p rest k hs hnoReset hlen hp hrst hk =>
      ⟨observation_abandoned hs len d rest hnoReset hlen hp hrst hk, if_neg (by decide)⟩,
    fun s k hno => observation_eq_none hno k,
    fun s len d resets rest k hs hresets hk => observation_kept_in_reset hs len d rest hresets hk⟩
  obtain ⟨t, hdrive, ht, hobserved⟩ := run_hashCommands hs (messageOf bits)
  have hdigest : digest t = referenceHash bits := ht.digest.trans (referenceHash_eq bits).symm
  rw [ht.status, hdigest] at hobserved
  exact ⟨t.facing rest, hdrive rest, rfl, ⟨ht.atRest.reset, ht.atRest.idle, ht.atRest.phase⟩, ht.dvalid,
    hdigest, hobserved rest, if_pos (by decide : (0x82 : BitVec 8).getLsbD 7 = true)⟩

end Sys2Proof.Machine
end

section
/-!
Errors of whole commands (60_exceptions.md R221 to R225): which words raise an error, and that the error is
all that such a word writes.
-/
namespace Sys2Proof.Machine

/-! ### What an error writes (R221) -/

theorem State.architected_eq_withError_iff {s t : State} {code : ErrCode} :
    t.architected = s.architected.withError code ↔
      t.h = s.h ∧ t.n = s.n ∧ t.sigma = s.sigma ∧ t.phase = s.phase ∧ t.err = true
        ∧ t.errcode = if s.err then s.errcode else code := by
  simp only [← State.raiseError_architected, State.architected_eq_iff, State.raiseError_h,
    State.raiseError_n, State.raiseError_sigma, State.raiseError_phase, State.raiseError_err,
    State.raiseError_errcode]

theorem State.errcode_of_withError {s t : State} {code : ErrCode} (herr : s.err = false)
    (h : t.architected = s.architected.withError code) : t.errcode = code := by
  obtain ⟨-, -, -, -, -, hcode⟩ := State.architected_eq_withError_iff.mp h
  simpa [herr] using hcode

/-- Settles O44: `raiseError` writes ERR and ERRCODE, and the code only if no error stands. -/
theorem firstErrorCodeIsKept : Obligations.FirstErrorCodeIsKept := fun s code =>
  ⟨fun h => by simp [h], fun h => by simp [h], s.raiseError_err code, s.raiseError_h code,
    s.raiseError_n code, s.raiseError_sigma code, s.raiseError_phase code⟩

/-! ### ILLEGAL_CMD (R223) -/

theorem legal_eq_false_iff_fields (c : CmdWord) :
    legal c = false ↔
      4 ≤ (opField c).toNat ∨ rsvField c ≠ 0#3 ∨ (lenField c ≠ 0#9 ∧ opField c ≠ 3#4) := by
  rw [← Bool.not_eq_true, legal_iff_fields, not_and_or, not_and_or, not_or, Nat.not_le,
    and_comm (a := lenField c ≠ 0#9)]
  rfl

/-- Settles O43: the causes are the failures of the three conditions of R76, and an illegal word completes
as an error. -/
theorem illegalWordRaisesIllegalCmd : Obligations.IllegalWordRaisesIllegalCmd := by
  intro s c d hs hcause
  obtain ⟨-, -, hillegal⟩ := decodingIsTotalAndLegalIsTheThreeConditions
  exact hillegal c d s hs ((legal_eq_false_iff_fields c).mpr hcause)

/-! ### SEQUENCE (R224) -/

theorem State.accept_architected_of_done {s : State} (hdone : s.phase = .done) (c : CmdWord)
    (d : Word512) : (s.accept c d).architected = s.architected := by
  simp [State.architected, acceptedPhase_eq, hdone]

theorem written_of_done {i : Instr} (hi : i = .block ∨ ∃ len, i = .last len) {s : State}
    (hdone : s.phase = .done) : written i s = s.raiseError .sequence := by
  obtain rfl | ⟨len, rfl⟩ := hi
  · exact unlessDone_done hdone _
  · exact unlessDone_done hdone _

theorem command_sequence {i : Instr} (hi : i = .block ∨ ∃ len, i = .last len) {s : State}
    (hs : s.resetSeen = true) (hdone : s.phase = .done) (d : Word512) :
    ∃ t, s.command (encode i) d = .next t ∧ t.busy = false
      ∧ t.architected = s.architected.withError .sequence := by
  have haccept := State.accept_architected_of_done hdone (encode i) d
  obtain ⟨-, -, -, hphase, -, -⟩ := State.architected_eq_iff.mp haccept
  have hwritten := written_of_done hi (s := { s.accept (encode i) d with wait := 0 })
    (hphase.trans hdone)
  refine ⟨_, command_encode hs i d, State.finish_busy _, ?_⟩
  rw [State.finish_architected, hwritten, State.raiseError_architected]
  exact congrArg (Architected.withError · .sequence) haccept

/-- Settles O42: the error keeps `H` and PHASE, which the digest shows, and sets ERR, which DVALID asks
for. -/
theorem sequenceErrorInDone : Obligations.SequenceErrorInDone := by
  intro s i d hs hdone hi
  obtain ⟨t, hcommand, hbusy, harch⟩ := command_sequence hi hs.reset hdone d
  obtain ⟨hh, -, -, hphase, herr, -⟩ := State.architected_eq_withError_iff.mp harch
  refine ⟨t, hcommand, hbusy, harch, ?_, ?_⟩
  · rw [digest, digest, hh, hphase]
  · simp [dvalid, herr]

/-! ### The order of the causes (R225) -/

theorem two_le_opcode_iff {i : Instr} :
    2 ≤ (opcode i).toNat ↔ i = .block ∨ ∃ len, i = .last len := by
  cases i <;> simp [opcode]

/-- Settles O45: a word decodes or it does not, so a word in DONE has one cause at most; the edge asks for
reset before anything else. -/
theorem illegalCmdHasPriority : Obligations.IllegalCmdHasPriority := by
  refine ⟨fun s c d hs hdone herr hop => ?_, fun s hrst => ⟨_, step_of_reset hrst, rfl, rfl⟩⟩
  cases hc : legal c with
  | true =>
    obtain ⟨i, rfl⟩ := (exists_encode_eq_iff_legal c).mpr hc
    rw [opField_encode, two_le_opcode_iff] at hop
    obtain ⟨t, hcommand, -, harch⟩ := command_sequence hop hs.reset hdone d
    exact ⟨t, hcommand, State.errcode_of_withError herr harch⟩
  | false =>
    obtain ⟨t, hcommand, -, harch⟩ :=
      illegalWordRaisesIllegalCmd s c d hs ((legal_eq_false_iff_fields c).mp hc)
    exact ⟨t, hcommand, State.errcode_of_withError herr harch⟩

end Sys2Proof.Machine
end

section
/-!
Reset and the life of a command (70_reset_and_hazards.md R240 to R242, R246): a reset edge leaves the state
after reset, a command in execution only waits until its completing edge, and that edge writes its whole
effect.
-/
namespace Sys2Proof.Machine

/-! ### Ready and rest -/

theorem cmdReady_of_rst {s : State} (hrst : s.ports.rst = true) : cmdReady s = false := by
  simp [cmdReady, hrst]

theorem cmdReady_of_idle {s : State} (hidle : s.busy = false) (hrst : s.ports.rst = false) :
    cmdReady s = true := by
  simp [cmdReady, hidle, hrst]

theorem atRest_reset_facing (drive : List Ports) : AtRest (State.reset.facing drive) :=
  ⟨rfl, rfl, nofun⟩

/-! ### Reset (R240, R241) -/

theorem step_reset {s : State} (hrst : s.ports.rst = true) :
    step s = .next (State.reset.facing s.inputs.tail) :=
  step_of_reset hrst

/-- Settles O21: reset is what an edge asks for first, and `cmd_ready` is 0 while `rst` is 1. -/
theorem resetAtAnyEdge : Obligations.ResetAtAnyEdge := fun _ hrst =>
  ⟨cmdReady_of_rst hrst, _, step_reset hrst, rfl, rfl, rfl, rfl⟩

/-- Settles O23: the edge leaves `State.reset` with the host's later drive, which is at rest and so accepts
what is offered next. -/
theorem stateAfterReset : Obligations.StateAfterReset := by
  intro s hrst
  refine ⟨_, step_reset hrst, rfl, rfl, rfl, rfl, rfl, rfl, rfl, status_reset_facing _,
    digest_reset_facing _, cmdReady_reset_facing, fun hnext hvalid => ?_⟩
  exact ⟨_, step_of_accept (atRest_reset_facing _) hnext hvalid, rfl, rfl, rfl⟩

/-! ### A command in execution -/

/-- `run_waiting` for a part of the wait: the first edges take from it only their number. -/
theorem run_waiting_part {s : State} (hreset : s.resetSeen = true) (hbusy : s.busy = true)
    {ps : List Ports} (hnoReset : NoReset ps) (w : Nat) (rest : List Ports) :
    core.run ps.length (s.awaiting (ps.length + w) (ps ++ rest)) = .next (s.awaiting w rest) := by
  induction ps with
  | nil => rw [List.length_nil, Nat.zero_add, List.nil_append, run_zero]
  | cons p ps ih =>
    obtain ⟨hp, hps⟩ := List.forall_mem_cons.mp hnoReset
    rw [List.length_cons, Nat.succ_add]
    exact (run_succ (step_waiting hreset hbusy hp _ _) _).trans (ih hps)

/-- A command `w` edges before its completing one (R246). -/
theorem run_offer_waiting {s : State} (hs : AtRest s) {c : CmdWord} (d : Word512) {ps : List Ports}
    (hnoReset : NoReset ps) {w : Nat} (hwait : acceptedWait c s.phase = ps.length + w)
    (rest : List Ports) :
    core.run (ps.length + 1) (s.facing (Ports.offer c d :: (ps ++ rest)))
      = .next ((s.accept c d).awaiting w rest) := by
  rw [run_succ (step_offer hs c d _), hwait]
  exact run_waiting_part (s := s.accept c d) hs.reset rfl hnoReset w rest

/-- A command reads nothing of the host's later drive. -/
theorem command_facing {s t : State} {c : CmdWord} {d : Word512} (hs : s.resetSeen = true)
    (h : s.command c d = .next t) (drive : List Ports) :
    (s.facing drive).command c d = .next (t.facing drive) := by
  rw [command_eq (s := s.facing drive) hs, ← command_next hs h]
  exact congrArg (fun u => Host.Outcome.next (State.finish u))
    (completed_facing { s.accept c d with wait := 0 } drive)

theorem NoReset.take {drive : List Ports} (h : NoReset drive) (k : Nat) : NoReset (drive.take k) :=
  fun p hp => h p (List.mem_of_mem_take hp)

theorem one_le_latencies : 1 ≤ Config.latInit ∧ 1 ≤ Config.latBlock ∧ 1 ≤ Config.latLast :=
  ⟨Nat.le_add_left _ _, Nat.le_add_left _ _, Nat.le_add_left _ _⟩

/-- BUSY from the accepting edge until the completing one (R246). -/
theorem busy_until_completion {s : State} (hs : AtRest s) (c : CmdWord) (d : Word512)
    {drive : List Ports} (hnoReset : NoReset drive) (rest : List Ports) {k : Nat}
    (hk : k ≤ acceptedWait c s.phase) (hlen : k ≤ drive.length) :
    ∃ t, core.run (1 + k) (s.facing (Ports.offer c d :: (drive ++ rest))) = .next t
      ∧ t.busy = true ∧ cmdReady t = false := by
  obtain ⟨w, hw⟩ := Nat.exists_eq_add_of_le hk
  have htake : (drive.take k).length = k := List.length_take_of_le hlen
  have hrun := run_offer_waiting hs d (hnoReset.take k) (htake.symm ▸ hw) (drive.drop k ++ rest)
  rw [htake, ← List.append_assoc, List.take_append_drop, Nat.add_comm] at hrun
  exact ⟨_, hrun, rfl, cmdReady_awaiting rfl _ _⟩

/-- Settles O27: the edges before the completing one only wait, and the completing one is the command's
effect, which `drivesTo_offer` gives for any later drive. -/
theorem commandCompletesAfterItsLatency : Obligations.CommandCompletesAfterItsLatency := by
  obtain ⟨hinit, hblock, hlast⟩ := one_le_latencies
  refine ⟨fun c p => ?_, hinit, hblock, hlast, fun s c d drive rest hs hnoReset hlen => ⟨?_, ?_⟩⟩
  · unfold acceptedWait
    cases decode c with
    | error e => exact Nat.sub_add_cancel hinit
    | ok i =>
      cases i with
      | nop => exact Nat.sub_add_cancel hinit
      | init => exact Nat.sub_add_cancel hinit
      | block => by_cases hp : p = .done <;> simp [hp, Nat.sub_add_cancel, hinit, hblock]
      | last len => by_cases hp : p = .done <;> simp [hp, Nat.sub_add_cancel, hinit, hlast]
  · intro k hk
    exact busy_until_completion hs c d hnoReset rest hk (by omega)
  · have hcommand := command_eq hs.reset c d
    have hidle := (command_atRest hs hcommand).idle
    refine ⟨_, ?_, command_facing hs.reset hcommand rest, hidle, rfl, cmdReady_of_idle hidle⟩
    rw [Nat.add_comm]
    exact drivesTo_offer hs hcommand hnoReset hlen rest

/-- An edge without a reset completes the command in execution or takes one edge off its wait. -/
theorem step_executing {s : State} (hreset : s.resetSeen = true) (hbusy : s.busy = true)
    (hrst : s.ports.rst = false) :
    (s.wait = 0 ∧ step s = s.popInput.executeLatched)
      ∨ (s.wait ≠ 0 ∧ step s = .next s.popInput.tick) := by
  by_cases hwait : s.wait = 0
  · have hcomplete := executeLatched_eq (s := s.popInput) hreset
    exact .inl ⟨hwait, (step_of_complete hreset hbusy hrst hwait).trans hcomplete.symm⟩
  · exact .inr ⟨hwait, step_of_wait hreset hbusy hrst hwait⟩

/-- Settles O28: the reset edge meets a command that still waits, none of whose writes has happened, and
leaves the state after reset; every other edge in execution completes the command or shortens its wait. -/
theorem resetAbandonsACommand : Obligations.ResetAbandonsACommand := by
  refine ⟨fun s c d drive p rest hs hnoReset hlen hp => ?_, fun s hreset hbusy hrst => ?_⟩
  · obtain ⟨w, hw⟩ := Nat.exists_eq_add_of_le hlen
    have hwaiting := run_offer_waiting hs d hnoReset hw (p :: rest)
    have habandon := step_awaiting_reset (s.accept c d) w hp rest
    exact ⟨_, (run_add 1 hwaiting).trans ((run_one _).trans habandon), rfl, rfl, rfl⟩
  · obtain hcomplete | ⟨hwait, hstep⟩ := step_executing hreset hbusy hrst
    · exact .inl hcomplete
    · exact .inr ⟨_, hstep, hbusy, rfl, rfl, Nat.sub_one_lt hwait⟩

end Sys2Proof.Machine
end

section
/-!
The round trip of command words (30_encoding.md sections 2 and 3), also in the numbering of the bits that
the opcode table uses.
-/
namespace Sys2Proof

/-- A word, numbered as the opcode table numbers its bits, is read back whole (R79). -/
theorem ofNat_toNat_mod_two_pow (c : CmdWord) : BitVec.ofNat 16 (c.toNat % 2 ^ 16) = c := by
  rw [Nat.mod_eq_of_lt c.isLt, BitVec.ofNat_toNat, BitVec.setWidth_eq]

theorem decodeTableWord_encode (i : Instr) : decodeTableWord 16 (encode i).toNat = some i := by
  rw [decodeTableWord, if_pos (Nat.le_refl 16), ofNat_toNat_mod_two_pow, decode_encode, Except.toOption]

/-- Settles O18: decoding is the inverse relation of encoding, since a word is its three fields. -/
theorem encodeAndDecodeAgree : Obligations.EncodeAndDecodeAgree :=
  ⟨decode_encode, fun _ _ => decode_eq_ok_iff_encode_eq.mp, decodeTableWord_encode⟩

end Sys2Proof
end

section
/-!
What one clock edge after the first reset can do, said once (70_reset_and_hazards.md R240, R245, R246), and
what the completion of a command can write (43_commands.md R170).
-/
namespace Sys2Proof.Machine

/-- The five things an edge can do, each with what the host drives and the core holds when it does it. -/
theorem step_cases {s t : State} (hs : s.resetSeen = true) (h : step s = .next t) :
    (s.ports.rst = true ∧ t = s.popInput.applyReset tables)
      ∨ (s.ports.rst = false ∧ s.busy = true ∧ s.wait = 0 ∧ t = (completed s.popInput).finish)
      ∨ (s.ports.rst = false ∧ s.busy = true ∧ s.wait ≠ 0 ∧ t = s.popInput.tick)
      ∨ (s.ports.rst = false ∧ s.busy = false ∧ s.ports.cmdValid = true
          ∧ t = s.popInput.accept s.ports.cmd s.ports.din)
      ∨ (s.ports.rst = false ∧ s.busy = false ∧ s.ports.cmdValid = false ∧ t = s.popInput) := by
  rw [step, clockEdge_eq hs, Host.Outcome.next.injEq] at h
  subst h
  cases hrst : s.ports.rst with
  | true => exact .inl ⟨rfl, rfl⟩
  | false =>
    cases hbusy : s.busy with
    | true =>
      by_cases hwait : s.wait = 0
      · exact .inr (.inl ⟨rfl, rfl, hwait, by simp [hwait]⟩)
      · exact .inr (.inr (.inl ⟨rfl, rfl, hwait, by simp [hwait]⟩))
    | false =>
      cases hvalid : s.ports.cmdValid with
      | true => exact .inr (.inr (.inr (.inl ⟨rfl, rfl, rfl, by simp⟩)))
      | false => exact .inr (.inr (.inr (.inr ⟨rfl, rfl, rfl, by simp⟩)))

/-- The latched word is a BLOCK or a LAST. -/
def LatchedAbsorbs (s : State) : Prop :=
  decode s.cmdLatch = .ok .block ∨ ∃ len, decode s.cmdLatch = .ok (.last len)

/-- The six things the completion of a command can write: an error, nothing, the start of a message, or
what BLOCK or LAST absorbs. -/
theorem completed_cases (s : State) :
    (legal s.cmdLatch = false ∧ completed s = s.raiseError .illegalCmd)
      ∨ (decode s.cmdLatch = .ok .nop ∧ completed s = s)
      ∨ (decode s.cmdLatch = .ok .init ∧ completed s = s.startMessage tables)
      ∨ (LatchedAbsorbs s ∧ s.phase = .done ∧ completed s = s.raiseError .sequence)
      ∨ (decode s.cmdLatch = .ok .block ∧ s.phase ≠ .done ∧ completed s = s.absorb tables s.dinLatch)
      ∨ ∃ len, decode s.cmdLatch = .ok (.last len) ∧ s.phase ≠ .done
          ∧ completed s = s.finalizeMessage tables len s.dinLatch := by
  cases hlegal : legal s.cmdLatch with
  | false => exact .inl ⟨rfl, completed_illegal hlegal⟩
  | true =>
    obtain ⟨i, hi⟩ := (exists_decode_eq_ok_iff_legal _).mpr hlegal
    have hwritten : completed s = written i s := by simp only [completed, hi]
    rw [LatchedAbsorbs, hwritten, hi]
    cases i with
    | nop => exact .inr (.inl ⟨rfl, rfl⟩)
    | init => exact .inr (.inr (.inl ⟨rfl, rfl⟩))
    | block =>
      by_cases hdone : s.phase = .done
      · exact .inr (.inr (.inr (.inl ⟨.inl rfl, hdone, unlessDone_done hdone _⟩)))
      · exact .inr (.inr (.inr (.inr (.inl ⟨rfl, hdone, unlessDone_else hdone _⟩))))
    | last len =>
      by_cases hdone : s.phase = .done
      · exact .inr (.inr (.inr (.inl ⟨.inr ⟨len, rfl⟩, hdone, unlessDone_done hdone _⟩)))
      · exact .inr (.inr (.inr (.inr (.inr ⟨len, rfl, hdone, unlessDone_else hdone _⟩))))

theorem completed_resetSeen (s : State) : (completed s).resetSeen = s.resetSeen := by
  obtain ⟨-, -, -, -, hreset, -⟩ := completed_frame s
  exact hreset

/-- No edge takes the core back before its first reset. -/
theorem step_resetSeen {s t : State} (hs : s.resetSeen = true) (h : step s = .next t) :
    t.resetSeen = true := by
  obtain ⟨-, rfl⟩ | ⟨-, -, -, rfl⟩ | ⟨-, -, -, rfl⟩ | ⟨-, -, -, rfl⟩ | ⟨-, -, -, rfl⟩ := step_cases hs h
  · rfl
  · exact (completed_resetSeen s.popInput).trans hs
  · exact hs
  · exact hs
  · exact hs

/-- Settles O32: after the first reset every edge answers one of the five next states. -/
theorem noErrorStopsTheCore : Obligations.NoErrorStopsTheCore := fun _ hs =>
  have hstep := clockEdge_eq hs
  ⟨_, hstep, step_resetSeen hs hstep⟩

/-- Settles O22: reset is what an edge asks for first, and it writes every field but the drive. -/
theorem resetWritesEveryField : Obligations.ResetWritesEveryField := fun _ => step_reset

theorem readOutputs_before {s : State} (hs : s.resetSeen = false) :
    readOutputs s = .error .beforeFirstReset :=
  if_neg (by simp [hs])

/-- Settles O24: before the first reset a read and a meaning fault at their guard, and an edge asks only
for a reset and an offer. -/
theorem nothingHasAValueBeforeTheFirstReset : Obligations.NothingHasAValueBeforeTheFirstReset := by
  refine fun s hs => ⟨readOutputs_before hs, exec_before hs, fun hrst hvalid => ?_, fun hrst hvalid => ?_⟩
  · rw [step, clockEdge_before hs, hrst, hvalid]
    rfl
  · rw [step, clockEdge_before hs, hrst, hvalid]
    rfl

end Sys2Proof.Machine
end

section
/-!
The invariant of the core's states (10_state.md R26, R34; 43_commands.md R176): each of the five things a
clock edge can do keeps it.
-/
namespace Sys2Proof.Machine

/-- Settles O30: after reset no command is in execution and no error is recorded. -/
theorem invariantHoldsAtReset : Obligations.InvariantHoldsAtReset :=
  ⟨rfl, nofun, nofun, ⟨fun _ => rfl, fun _ => rfl⟩⟩

theorem CoreInv.popInput {s : State} (hs : CoreInv s) : CoreInv s.popInput :=
  ⟨hs.reset, hs.finalizing, hs.lastRuns, hs.code⟩

theorem CoreInv.tick {s : State} (hs : CoreInv s) : CoreInv s.tick :=
  ⟨hs.reset, hs.finalizing, hs.lastRuns, hs.code⟩

theorem CoreInv.applyReset (s : State) : CoreInv (s.applyReset tables) :=
  ⟨rfl, nofun, nofun, ⟨fun _ => rfl, fun _ => rfl⟩⟩

/-- Only a LAST accepted in ACCUMULATING enters FINALIZING, and it leaves ACCUMULATING. -/
theorem CoreInv.accept {s : State} (hs : CoreInv s) (hidle : s.busy = false) (c : CmdWord)
    (d : Word512) : CoreInv (s.accept c d) := by
  refine ⟨hs.reset, fun hphase => ⟨rfl, ?_⟩, fun _ hlast => ?_, hs.code⟩
  · rw [State.accept_phase, acceptedPhase_eq] at hphase
    split at hphase
    case isTrue h => exact h.1
    case isFalse =>
      obtain ⟨hbusy, -⟩ := hs.finalizing hphase
      simp [hidle] at hbusy
  · rw [State.accept_cmdLatch] at hlast
    rw [State.accept_phase, acceptedPhase_eq]
    split
    case isTrue => nofun
    case isFalse h => exact fun hacc => h ⟨hlast, hacc⟩

/-- An error records a code that is not NONE, unless one is recorded already. -/
theorem errcode_raiseError_eq_none_iff {s : State} (hs : s.errcode = .none ↔ s.err = false)
    {code : ErrCode} (hcode : code ≠ .none) :
    (s.raiseError code).errcode = .none ↔ (s.raiseError code).err = false := by
  cases herr : s.err <;> simp [herr, hs, hcode]

/-- Completion keeps R34: both errors have a code, and INIT clears ERRCODE with ERR. -/
theorem errcode_completed_eq_none_iff {s : State} (hs : s.errcode = .none ↔ s.err = false) :
    (completed s).errcode = .none ↔ (completed s).err = false := by
  obtain ⟨-, h⟩ | ⟨-, h⟩ | ⟨-, h⟩ | ⟨-, -, h⟩ | ⟨-, -, h⟩ | ⟨len, -, -, h⟩ := completed_cases s <;>
    rw [h]
  · exact errcode_raiseError_eq_none_iff hs nofun
  · exact hs
  · simp
  · exact errcode_raiseError_eq_none_iff hs nofun
  · rwa [State.absorb_errcode, State.absorb_err]
  · rwa [State.finalizeMessage_errcode, State.finalizeMessage_err]

/-- A LAST that completes leaves FINALIZING. -/
theorem phaseAfter_of_last {c : CmdWord} (hc : isLastWord c = true) (p : Phase) :
    phaseAfter c p = .done := by
  unfold isLastWord at hc
  unfold phaseAfter
  split at hc
  · simp only [*]
  · cases hc

theorem CoreInv.completed {s : State} (hs : CoreInv s) : CoreInv (completed s).finish := by
  refine ⟨(completed_resetSeen s).trans hs.reset, fun hphase => ?_, nofun,
    errcode_completed_eq_none_iff hs.code⟩
  rw [State.finish_phase, completed_phase] at hphase
  by_cases hfin : s.phase = .finalizing
  · obtain ⟨-, hlast⟩ := hs.finalizing hfin
    rw [phaseAfter_of_last hlast] at hphase
    cases hphase
  · exact absurd hphase (phaseAfter_ne_finalizing _ hfin)

/-- Settles O31: the five things an edge can do keep the invariant. -/
theorem everyStepKeepsTheInvariant : Obligations.EveryStepKeepsTheInvariant := by
  intro s t hs h
  obtain ⟨-, rfl⟩ | ⟨-, -, -, rfl⟩ | ⟨-, -, -, rfl⟩ | ⟨-, hidle, -, rfl⟩ | ⟨-, -, -, rfl⟩ :=
    step_cases hs.reset h
  · exact .applyReset _
  · exact hs.popInput.completed
  · exact hs.popInput.tick
  · exact hs.popInput.accept hidle _ _
  · exact hs.popInput

end Sys2Proof.Machine
end

section
/-!
Which events write the registers (10_state.md R20, R34, R37): the data registers, BUSY, ERR and ERRCODE.
-/
namespace Sys2Proof.Machine

/-- Completion writes a data register only as INIT, or as BLOCK or LAST outside DONE. -/
theorem completed_writes_data {s : State}
    (h : (completed s).h ≠ s.h ∨ (completed s).n ≠ s.n ∨ (completed s).sigma ≠ s.sigma) :
    decode s.cmdLatch = .ok .init ∨ (s.phase ≠ .done ∧ LatchedAbsorbs s) := by
  obtain ⟨-, hc⟩ | ⟨-, hc⟩ | ⟨hdec, -⟩ | ⟨-, -, hc⟩ | ⟨hdec, hdone, -⟩ | ⟨len, hdec, hdone, -⟩ :=
    completed_cases s
  · simp [hc] at h
  · simp [hc] at h
  · exact .inl hdec
  · simp [hc] at h
  · exact .inr ⟨hdone, .inl hdec⟩
  · exact .inr ⟨hdone, .inr ⟨len, hdec⟩⟩

/-- Settles O34: of the five things an edge can do, only a reset and a completion write a data register. -/
theorem onlyCommandsAndResetWriteTheDataRegisters :
    Obligations.OnlyCommandsAndResetWriteTheDataRegisters := by
  intro s t hs h hchange
  obtain ⟨hrst, -⟩ | ⟨-, hbusy, hwait, rfl⟩ | ⟨-, -, -, rfl⟩ | ⟨-, -, -, rfl⟩ | ⟨-, -, -, rfl⟩ :=
    step_cases hs.reset h
  · exact .inl hrst
  · exact .inr ⟨hbusy, hwait, completed_writes_data (s := s.popInput) hchange⟩
  · simp at hchange
  · simp at hchange
  · simp at hchange

/-- What the completion of a command does to ERR and ERRCODE: INIT clears both, an error is recorded with
its cause unless one is recorded already, and otherwise both are kept. -/
theorem completed_flags (s : State) :
    (decode s.cmdLatch = .ok .init ∧ (completed s).err = false ∧ (completed s).errcode = .none)
      ∨ ((completed s).err = s.err ∧ (completed s).errcode = s.errcode)
      ∨ ((completed s).err = true ∧ s.err = false
        ∧ ((legal s.cmdLatch = false ∧ (completed s).errcode = .illegalCmd)
          ∨ (s.phase = .done ∧ (completed s).errcode = .sequence ∧ LatchedAbsorbs s))) := by
  obtain ⟨hc, h⟩ | ⟨-, h⟩ | ⟨hc, h⟩ | ⟨hc, hdone, h⟩ | ⟨-, -, h⟩ | ⟨len, -, -, h⟩ := completed_cases s <;>
    rw [h]
  · cases herr : s.err <;> simp [herr, hc]
  · exact .inr (.inl ⟨rfl, rfl⟩)
  · exact .inl ⟨hc, rfl, rfl⟩
  · cases herr : s.err <;> simp [herr, hc, hdone]
  · exact .inr (.inl ⟨State.absorb_err .., State.absorb_errcode ..⟩)
  · exact .inr (.inl ⟨State.finalizeMessage_err .., State.finalizeMessage_errcode ..⟩)

/-- The same for a clock edge, which may also be a reset. -/
theorem step_flags {s t : State} (hs : s.resetSeen = true) (h : step s = .next t) :
    ((s.ports.rst = true ∨ (s.busy = true ∧ s.wait = 0 ∧ decode s.cmdLatch = .ok .init))
        ∧ t.err = false ∧ t.errcode = .none)
      ∨ (t.err = s.err ∧ t.errcode = s.errcode)
      ∨ (t.err = true ∧ s.err = false ∧ s.ports.rst = false ∧ s.busy = true ∧ s.wait = 0
        ∧ ((legal s.cmdLatch = false ∧ t.errcode = .illegalCmd)
          ∨ (s.phase = .done ∧ t.errcode = .sequence ∧ LatchedAbsorbs s))) := by
  obtain ⟨hrst, rfl⟩ | ⟨hrst, hbusy, hwait, rfl⟩ | ⟨-, -, -, rfl⟩ | ⟨-, -, -, rfl⟩ | ⟨-, -, -, rfl⟩ :=
    step_cases hs h
  · exact .inl ⟨.inl hrst, rfl, rfl⟩
  · obtain ⟨hinit, hflags⟩ | hkept | ⟨herr, hold, hcause⟩ := completed_flags s.popInput
    · exact .inl ⟨.inr ⟨hbusy, hwait, hinit⟩, hflags⟩
    · exact .inr (.inl hkept)
    · exact .inr (.inr ⟨herr, hold, hrst, hbusy, hwait, hcause⟩)
  · exact .inr (.inl ⟨rfl, rfl⟩)
  · exact .inr (.inl ⟨rfl, rfl⟩)
  · exact .inr (.inl ⟨rfl, rfl⟩)

theorem step_sets_busy {s t : State} (hs : s.resetSeen = true) (h : step s = .next t)
    (hidle : s.busy = false) (hbusy : t.busy = true) :
    s.ports.rst = false ∧ s.ports.cmdValid = true := by
  obtain ⟨-, rfl⟩ | ⟨-, -, -, rfl⟩ | ⟨-, hexec, -⟩ | ⟨hrst, -, hvalid, -⟩ | ⟨-, -, -, rfl⟩ := step_cases hs h
  · simp at hbusy
  · simp at hbusy
  · simp [hidle] at hexec
  · exact ⟨hrst, hvalid⟩
  · simp [hidle] at hbusy

theorem step_clears_busy {s t : State} (hs : s.resetSeen = true) (h : step s = .next t)
    (hbusy : s.busy = true) (hidle : t.busy = false) : s.ports.rst = true ∨ s.wait = 0 := by
  obtain ⟨hrst, -⟩ | ⟨-, -, hwait, -⟩ | ⟨-, -, -, rfl⟩ | ⟨-, hrest, -⟩ | ⟨-, hrest, -⟩ := step_cases hs h
  · exact .inl hrst
  · exact .inr hwait
  · simp [hbusy] at hidle
  · simp [hbusy] at hrest
  · simp [hbusy] at hrest

/-- Settles O35: an edge clears ERR and ERRCODE, keeps both, or records an error with its cause; the
invariant says that ERRCODE is NONE where a reset or an INIT finds ERR 0. -/
theorem flagsAreSetAndClearedOnlyByTheirEvents :
    Obligations.FlagsAreSetAndClearedOnlyByTheirEvents := by
  intro s t hs h
  refine ⟨step_sets_busy hs.reset h, step_clears_busy hs.reset h, ?_⟩
  obtain ⟨hevent, herr, hcode⟩ | ⟨herr, hcode⟩ | ⟨herr, hold, hrst, hbusy, hwait, hcause⟩ :=
    step_flags hs.reset h
  · have hkept : s.err = false → t.errcode = s.errcode := fun hold => hcode.trans (hs.code.mpr hold).symm
    simpa [herr, hevent] using hkept
  · refine ⟨fun hold hnew => ?_, fun _ _ => hcode, fun _ _ => hcode, fun hold hnew => ?_⟩ <;>
      simp [herr, hold] at hnew
  · exact ⟨by simp [hold], by simp [hold], by simp [herr], fun _ _ => ⟨hrst, hbusy, hwait, hcause⟩⟩

end Sys2Proof.Machine
end

section
/-!
The fields of the status word (10_state.md R27, R28), each by its bits.
-/
namespace Sys2Proof.Machine

theorem status_phase (s : State) : (status s).extractLsb' 0 2 = phaseBits s.phase := by
  rw [status, BitVec.extractLsb'_append_eq_right]

theorem status_busy (s : State) : (status s).getLsbD 2 = s.busy := by
  simp only [status, BitVec.getLsbD_append, BitVec.getLsbD_ofBool]
  rfl

theorem status_err (s : State) : (status s).getLsbD 3 = s.err := by
  simp only [status, BitVec.getLsbD_append, BitVec.getLsbD_ofBool]
  rfl

theorem status_errcode (s : State) : (status s).extractLsb' 4 3 = errcodeBits s.errcode := by
  rw [status, BitVec.extractLsb'_append_eq_of_le (by decide), BitVec.extractLsb'_append_eq_of_le (by decide),
    BitVec.extractLsb'_append_eq_of_le (by decide), BitVec.extractLsb'_append_eq_right]

theorem status_dvalid (s : State) : (status s).getLsbD 7 = dvalid s := by
  simp only [status, BitVec.getLsbD_append, BitVec.getLsbD_ofBool]
  rfl

theorem dvalid_iff (s : State) : dvalid s = true ↔ s.phase = .done ∧ s.err = false := by
  simp [dvalid]

theorem busy_eq_not_cmdReady {s : State} (hrst : s.ports.rst = false) : s.busy = !cmdReady s := by
  simp [cmdReady, hrst]

/-- The status shows the flags and PHASE, and nothing else. -/
theorem status_congr {s t : State} (harch : s.architected = t.architected) (hbusy : s.busy = t.busy) :
    status s = status t := by
  obtain ⟨-, -, -, hphase, herr, hcode⟩ := State.architected_eq_iff.mp harch
  rw [status, status, dvalid, dvalid, hphase, herr, hcode, hbusy]

/-- The digest shows `H` and PHASE, and nothing else. -/
theorem digest_congr {s t : State} (harch : s.architected = t.architected) : digest s = digest t := by
  obtain ⟨hh, -, -, hphase, -, -⟩ := State.architected_eq_iff.mp harch
  rw [digest, digest, hh, hphase]

/-- Settles O46: each field stands at its bits, and after reset all of them are 0. -/
theorem statusFields : Obligations.StatusFields := by
  refine ⟨fun s => ⟨?_, status_busy s, busy_eq_not_cmdReady, status_err s, ?_, ?_⟩, by decide⟩
  · rw [status_phase]
    cases s.phase <;> rfl
  · rw [status_errcode]
    cases s.errcode <;> rfl
  · rw [status_dvalid, dvalid_iff]

end Sys2Proof.Machine
end

section
/-!
The handshake and the edges of an execution (70_reset_and_hazards.md R245, R246, R249; 43_commands.md
section 1): what the completing edge runs, what is latched, and what the outputs show meanwhile.
-/
namespace Sys2Proof.Machine

/-! ### The completing edge runs the latched command -/

theorem step_runs_latched {s : State} (hreset : s.resetSeen = true) (hbusy : s.busy = true)
    (hwait : s.wait = 0) (hrst : s.ports.rst = false) : step s = s.popInput.executeLatched :=
  (step_of_complete hreset hbusy hrst hwait).trans (executeLatched_eq (s := s.popInput) hreset).symm

theorem executeLatched_of_ok {s : State} {i : Instr} (hdec : decode s.cmdLatch = .ok i) :
    s.executeLatched = exec i s := by
  rw [State.executeLatched, State.executeLatchedBy, hdec]

theorem executeLatched_of_error {s : State} {e : Illegal} (hreset : s.resetSeen = true)
    (hdec : decode s.cmdLatch = .error e) :
    s.executeLatched = .next (s.raiseError .illegalCmd).finish := by
  rw [State.executeLatched, State.executeLatchedBy, hdec]
  exact whenReset_eq hreset _

/-- The edge that `withFetchWord` prepares has no reset, whatever the host was to drive. -/
theorem ports_rst_withFetchWord (s : State) (nbits w : Nat) :
    (s.withFetchWord nbits w).ports.rst = false := by
  rw [State.withFetchWord, State.withLatchedWord, State.ports]
  cases s.inputs <;> rfl

theorem inputs_tail_withFetchWord (s : State) (nbits w : Nat) :
    (s.withFetchWord nbits w).inputs.tail = s.inputs.tail := by
  rw [State.withFetchWord, State.withLatchedWord]
  cases s.inputs <;> rfl

theorem decode_withFetchWord_encode (s : State) (i : Instr) :
    decode (s.withFetchWord 16 (encode i).toNat).cmdLatch = .ok i :=
  (congrArg decode (ofNat_toNat_mod_two_pow (encode i))).trans (decode_encode i)

/-- Settles O20: the completing edge consumes its drive, then runs the latched command; a fetched word is
latched with no edge left to wait for. -/
theorem stepRunsTheLatchedCommand : Obligations.StepRunsTheLatchedCommand := by
  refine ⟨fun s i hreset hbusy hwait hrst hdec => ?_, fun s e hreset hbusy hwait hrst hdec => ?_,
    fun s i hreset => ?_⟩
  · exact (step_runs_latched hreset hbusy hwait hrst).trans (executeLatched_of_ok hdec)
  · exact (step_runs_latched hreset hbusy hwait hrst).trans (executeLatched_of_error hreset hdec)
  · rw [← inputs_tail_withFetchWord s 16 (encode i).toNat]
    exact (step_runs_latched (s := s.withFetchWord 16 _) hreset rfl rfl
      (ports_rst_withFetchWord s 16 _)).trans (executeLatched_of_ok (decode_withFetchWord_encode s i))

/-! ### Acceptance (R245) -/

theorem step_of_idle {s : State} (hreset : s.resetSeen = true) (hidle : s.busy = false)
    (hrst : s.ports.rst = false) :
    step s = .next (if s.ports.cmdValid then s.popInput.accept s.ports.cmd s.ports.din else s.popInput) := by
  simp [step, clockEdge_eq hreset, hrst, hidle]

/-- A core in execution reads nothing of the host's drive but `rst`. -/
theorem step_of_busy {s : State} (hreset : s.resetSeen = true) (hbusy : s.busy = true)
    (hrst : s.ports.rst = false) :
    step s = .next (if s.wait = 0 then (completed s.popInput).finish else s.popInput.tick) := by
  simp [step, clockEdge_eq hreset, hrst, hbusy]

theorem step_of_busy_latches {s t : State} (hreset : s.resetSeen = true) (hbusy : s.busy = true)
    (hrst : s.ports.rst = false) (h : step s = .next t) :
    t.cmdLatch = s.cmdLatch ∧ t.dinLatch = s.dinLatch := by
  rw [step_of_busy hreset hbusy hrst, Host.Outcome.next.injEq] at h
  subst h
  obtain ⟨hcmd, hdin, -⟩ := completed_frame s.popInput
  split
  · exact ⟨hcmd, hdin⟩
  · exact ⟨rfl, rfl⟩

/-- Settles O25: `cmd_ready` is 1 exactly at rest without a reset, and a core at rest latches what it is
offered, where one in execution does not read it. -/
theorem acceptanceHandshake : Obligations.AcceptanceHandshake := by
  refine ⟨fun s hreset hrst hvalid hready => ?_, fun s hreset hrst hvalid hready => ?_,
    fun s p hreset hrst hready hp => ?_⟩
  · have hidle : s.busy = false := by simp [busy_eq_not_cmdReady hrst, hready]
    rw [step_of_idle hreset hidle hrst, if_pos hvalid]
    exact ⟨_, rfl, rfl, rfl, rfl, rfl⟩
  · have hidle : s.busy = false := by simp [busy_eq_not_cmdReady hrst, hready]
    rw [step_of_idle hreset hidle hrst, if_neg (by simp [hvalid])]
    rfl
  · have hbusy : s.busy = true := by simp [busy_eq_not_cmdReady hrst, hready]
    have hother := step_of_busy (s := { s with inputs := p :: s.inputs.tail }) hreset hbusy hp
    exact ⟨(step_of_busy hreset hbusy hrst).trans hother.symm,
      fun t => step_of_busy_latches hreset hbusy hrst⟩

/-! ### The outputs from acceptance to completion (R249) -/

theorem acceptedPhase_eq_done_iff (c : CmdWord) (p : Phase) : acceptedPhase c p = .done ↔ p = .done := by
  rw [acceptedPhase_eq]
  split
  case isTrue h => simp [h.2]
  case isFalse => rfl

/-- Acceptance neither enters nor leaves DONE, where alone the digest shows `H`. -/
theorem digest_accept (s : State) (c : CmdWord) (d : Word512) : digest (s.accept c d) = digest s := by
  simp only [digest, State.accept_phase, acceptedPhase_eq_done_iff, State.accept_h]

theorem status_extract_busy {s : State} (hbusy : s.busy = true) : (status s).extractLsb' 2 1 = 1 := by
  refine BitVec.eq_of_getLsbD_eq fun k hk => ?_
  obtain rfl : k = 0 := by omega
  rw [BitVec.getLsbD_extractLsb', status_busy, hbusy]
  rfl

/-- Settles O26: the accepting edge writes the latches, BUSY and PHASE, and a waiting edge counts. -/
theorem outputsWhileACommandExecutes : Obligations.OutputsWhileACommandExecutes := by
  refine ⟨fun s c d rest hs hin => ?_, fun s hreset hbusy hwait hrst => ?_⟩
  · have hports : s.ports = Ports.offer c d := by rw [State.ports, hin, List.headD_cons]
    have hstep := step_of_accept hs (by rw [hports]; rfl) (by rw [hports]; rfl)
    rw [hports] at hstep
    exact ⟨_, hstep, status_extract_busy rfl, acceptedPhase_eq c s.phase, rfl, rfl, rfl, rfl, rfl,
      digest_accept s.popInput c d⟩
  · exact ⟨_, step_of_wait hreset hbusy hrst hwait, hbusy, rfl, rfl, rfl⟩

end Sys2Proof.Machine
end

section
/-!
The commands one by one (43_commands.md R170 to R175): the state that each leaves, written whole, and what
it leaves unchanged (10_state.md R37).
-/
namespace Sys2Proof.Machine

/-! ### NOP and INIT -/

theorem exec_nop {s : State} (hs : s.resetSeen = true) :
    exec .nop s = .next { s with busy := false } :=
  exec_eq hs .nop

theorem State.set_idle_of_idle {s : State} (hidle : s.busy = false) : { s with busy := false } = s := by
  rw [← hidle]

/-- Nothing but a LAST writes an architected register at its acceptance (R176). -/
theorem State.accept_architected_of_not_last {c : CmdWord} (hc : isLastWord c = false) (d : Word512)
    (s : State) : (s.accept c d).architected = s.architected := by
  simp [State.architected, acceptedPhase_eq, hc]

theorem command_nop_architected {s : State} (hs : s.resetSeen = true) (d : Word512) :
    ∃ t, s.command (encode .nop) d = .next t ∧ t.busy = false ∧ t.architected = s.architected :=
  ⟨_, command_encode hs .nop d, rfl,
    State.accept_architected_of_not_last (c := encode .nop) (by decide) d s⟩

theorem eq_nop_of_opcode_eq_zero {i : Instr} (h : opcode i = 0#4) : i = .nop := by
  cases i <;> simp [opcode] at h ⊢

/-- A word with the opcode of NOP is NOP's word or illegal. -/
theorem illegal_of_nop_opcode {c : CmdWord} (hop : opField c = 0#4) (hc : c ≠ 0x0000) :
    legal c = false := by
  by_contra hlegal
  obtain ⟨i, rfl⟩ := (exists_encode_eq_iff_legal c).mpr (Bool.not_eq_false _ ▸ hlegal)
  rw [opField_encode] at hop
  rw [eq_nop_of_opcode_eq_zero hop] at hc
  exact hc rfl

theorem command_illegal_architected {c : CmdWord} (hc : legal c = false) {s : State} (hs : AtRest s)
    (d : Word512) :
    ∃ t, s.command c d = .next t ∧ t.architected = s.architected.withError .illegalCmd := by
  obtain ⟨t, hcommand, -, harch⟩ :=
    illegalWordRaisesIllegalCmd s c d hs ((legal_eq_false_iff_fields c).mp hc)
  exact ⟨t, hcommand, harch⟩

/-- Settles O36: NOP writes BUSY alone, and the other words with its opcode are illegal. -/
theorem nopChangesNothing : Obligations.NopChangesNothing := by
  refine ⟨fun s => exec_nop, fun s hs => ?_, fun s d hs => ⟨rfl, command_nop_architected hs.reset d⟩,
    fun s c d hs hop hc => command_illegal_architected (illegal_of_nop_opcode hop hc) hs d⟩
  rw [exec_nop hs.reset, State.set_idle_of_idle hs.idle]

theorem exec_init {s : State} (hs : s.resetSeen = true) :
    exec .init s = .next { s with
      h := iv, n := zero512, sigma := zero512, phase := .accumulating, err := false, errcode := .none,
      busy := false } := by
  rw [exec_eq hs, written, State.startMessage, tables_iv]
  rfl

theorem written_init_architected (s : State) :
    (written .init s).finish.architected = State.reset.architected := rfl

/-- Settles O37: INIT writes what reset writes, so the outputs are those after reset. -/
theorem initStartsAMessage : Obligations.InitStartsAMessage := by
  refine ⟨fun s hs => ⟨_, exec_init hs, rfl, rfl, ?_, ?_⟩,
    fun d => ⟨_, command_encode (s := State.reset) rfl .init d, rfl, rfl⟩⟩
  · exact (digest_congr (t := State.reset) rfl).trans digest_reset
  · exact (status_congr (t := State.reset) rfl rfl).trans (by decide)

/-! ### BLOCK and LAST -/

/-- The padded block as a number (R182). -/
theorem padded_eq_ofNat (len : BitVec 9) (d : Word512) :
    padded len d = BitVec.ofNat 512 (2 ^ len.toNat + d.toNat % 2 ^ len.toNat) := by
  rw [← toNat_tail, ← toNat_padded, BitVec.ofNat_toNat, BitVec.setWidth_eq]

theorem exec_block_of_ne_done {s : State} (hs : s.resetSeen = true) (hdone : s.phase ≠ .done) :
    exec .block s = .next { s with
      h := compress s.n s.h s.dinLatch, n := s.n + 512, sigma := s.sigma + s.dinLatch,
      busy := false } := by
  rw [exec_eq hs, written, unlessDone_else hdone, State.absorb, add512_eq, add512_eq]
  rfl

/-- What LAST leaves: the padding step, then the two finalization compressions (R174). -/
theorem exec_last_of_ne_done {s : State} (hs : s.resetSeen = true) (hdone : s.phase ≠ .done)
    (len : BitVec 9) :
    let block := BitVec.ofNat 512 (2 ^ len.toNat + s.dinLatch.toNat % 2 ^ len.toNat)
    let n1 := s.n + BitVec.ofNat 512 len.toNat
    let s1 := s.sigma + block
    exec (.last len) s = .next { s with
      h := compress zero512 (compress zero512 (compress s.n s.h block) n1) s1, n := n1,
      sigma := s1, phase := .done, busy := false } := by
  rw [exec_eq hs, written, unlessDone_else hdone, State.finalizeMessage, padded_eq_ofNat,
    lenBits_eq_intToBits, add512_eq, add512_eq]
  rfl

theorem exec_of_done {i : Instr} (hi : i = .block ∨ ∃ len, i = .last len) {s : State}
    (hs : s.resetSeen = true) (hdone : s.phase = .done) :
    exec i s = .next { s with
      err := true, errcode := if s.err then s.errcode else .sequence, busy := false } := by
  rw [exec_eq hs, written_of_done hi hdone]
  rfl

/-- Settles O40: BLOCK and LAST ask of PHASE only whether it is DONE. -/
theorem onlyDoneRaisesSequence : Obligations.OnlyDoneRaisesSequence := fun _ hs hdone =>
  ⟨exec_block_of_ne_done hs hdone, exec_last_of_ne_done hs hdone⟩

theorem tracks_reset : Tracks .start State.reset :=
  ⟨⟨rfl, rfl, nofun⟩, rfl, rfl, rfl, rfl, rfl, rfl⟩

/-! ### The values of the examples (R173, R174) -/

/-- The standard's first message, of 504 bits. -/
def firstMessage : Word512 :=
  0x323130393837363534333231303938373635343332313039383736353433323130393837363534333231303938373635343332313039383736353433323130

/-- `H` after the padding step of the first message. -/
def firstMessagePadded : Word512 :=
  0xe3bbadbf78af3264c9137127608aa510de90ba4d3075665844965fb611dbb1998d48552a0c0ce6bcba71bc802a4f5b2d2a07b12c22e25794178570341096fdc7

/-- `H` after the first message's length is compressed. -/
def firstMessageCounted : Word512 :=
  0x70f22bada4cfe18a6a56ec4b3f328cd40db8e1bf8a9d5f711d5efab11191279d715aab7648d07eddbf87dc79c80516e6ffcbcf5678b0ac29ea00fa85c8173cc6

/-- `H` after the first message's sum is compressed. -/
def firstMessageFinal : Word512 :=
  0x00557be5e584fd52a449b16b0251d05d27f94ab76cbaa6da890b59d8ef1e159d2088e482e2acf564e0e9795a51e4dd261f3f667985a2fcc40ac8631faca1709a

/-- The compressions of the examples: the zero block after reset, and the three of the first message's LAST.
They stand in one lemma so that the kernel evaluates them one after the other. -/
theorem compress_examples :
    compress zero512 iv 0
        = 0x3941f3938f9f52737257483f620d45116412099b9adda13efbcb9287456ad3d5c9ec3702cc69220a5e6f4451ecbb7b67bd2a86b7f9cd70a2777581b838485eea
      ∧ compress zero512 iv (padded 504 firstMessage) = firstMessagePadded
      ∧ compress zero512 firstMessagePadded (add512 zero512 (lenBits 504)) = firstMessageCounted
      ∧ compress zero512 firstMessageCounted (add512 zero512 (padded 504 firstMessage))
        = firstMessageFinal := by
  refine ⟨?_, ?_, ?_, ?_⟩
  · decide +kernel
  · decide +kernel
  · decide +kernel
  · decide +kernel

theorem absorb_zeroBlock :
    (Running.start.absorb 0).h
      = 0x3941f3938f9f52737257483f620d45116412099b9adda13efbcb9287456ad3d5c9ec3702cc69220a5e6f4451ecbb7b67bd2a86b7f9cd70a2777581b838485eea := by
  obtain ⟨hzero, -, -, -⟩ := compress_examples
  exact hzero

theorem finalize_firstMessage :
    Running.start.finalize 504 firstMessage = firstMessageFinal := by
  obtain ⟨-, hpadded, hcounted, hfinal⟩ := compress_examples
  have hstart : Running.start = { h := iv, n := zero512, sigma := zero512 } := rfl
  simp only [Running.finalize, hstart, hpadded, hcounted, hfinal]

theorem extract_firstMessageFinal :
    firstMessageFinal.extractLsb' 256 256
      = 0x00557be5e584fd52a449b16b0251d05d27f94ab76cbaa6da890b59d8ef1e159d := by
  simp [firstMessageFinal]

/-- Settles O38: BLOCK absorbs outside DONE and errs in it, a BLOCK with a nonzero LEN or RSV is illegal,
and the example is the source's loop on one zero block. -/
theorem blockAbsorbsItsBlock : Obligations.BlockAbsorbsItsBlock := by
  refine ⟨fun s hs hphase => exec_block_of_ne_done hs (by simp [hphase]),
    fun s hs hdone => exec_of_done (.inl rfl) hs hdone, fun s c d hs hop hfields => ?_, ?_⟩
  · refine command_illegal_architected ((legal_eq_false_iff_fields c).mpr ?_) hs d
    obtain hlen | hrsv := hfields
    · exact .inr (.inr ⟨hlen, by simp [hop]⟩)
    · exact .inr (.inl hrsv)
  · obtain ⟨t, hcommand, ht⟩ := command_block_tracks tracks_reset 0
    exact ⟨t, hcommand, ht.h.trans absorb_zeroBlock, ht.n.trans (BitVec.zero_add _),
      ht.sigma.trans (BitVec.zero_add _)⟩

/-- Settles O39: LAST enters FINALIZING at its acceptance, waits there, and finalizes at its completion;
the first message is finalized as the source's algorithm does it. -/
theorem lastPadsAndFinalizes : Obligations.LastPadsAndFinalizes := by
  refine ⟨fun s len hs hphase => ?_, fun s len d hphase => ?_,
    fun s hs hbusy hwait hrst hphase => ⟨_, step_of_wait hs hbusy hrst hwait, hphase, ?_⟩,
    fun s len hs hdone => exec_of_done (.inr ⟨len, rfl⟩) hs hdone, fun len => legal_encode _, ?_⟩
  · refine ⟨_, exec_last_of_ne_done hs (by simp [hphase]) len, rfl, fun herr => ?_⟩
    exact (dvalid_iff _).mpr ⟨rfl, herr⟩
  · rw [State.accept_phase, acceptedPhase_eq, if_pos ⟨isLastWord_encode_last len, hphase⟩]
  · rw [status_phase, State.tick_phase, State.popInput_phase, hphase]
    rfl
  · obtain ⟨t, hcommand, ht⟩ := command_last_finished tracks_reset 504 firstMessage
    refine ⟨t, hcommand, ht.digest.trans ?_⟩
    rw [finalize_firstMessage, extract_firstMessageFinal]

/-! ### Frames -/

theorem exec_next {i : Instr} {s t : State} (h : exec i s = .next t) : (written i s).finish = t := by
  cases hs : s.resetSeen with
  | false => simp [exec_before hs] at h
  | true => exact Host.Outcome.next.inj ((exec_eq hs i).symm.trans h)

/-- No command writes the latches, the host's drive or the wait. -/
theorem written_frame (i : Instr) (s : State) :
    (written i s).cmdLatch = s.cmdLatch ∧ (written i s).dinLatch = s.dinLatch
      ∧ (written i s).wait = s.wait ∧ (written i s).resetSeen = s.resetSeen
      ∧ (written i s).inputs = s.inputs := by
  cases i with
  | nop => exact ⟨rfl, rfl, rfl, rfl, rfl⟩
  | init => simp [written]
  | block =>
    rw [written, State.unlessDone]
    split <;> simp
  | last len =>
    rw [written, State.unlessDone]
    split <;> simp

/-- In DONE a command other than INIT writes ERR and ERRCODE at most. -/
theorem written_data_of_done {i : Instr} (hi : i ≠ .init) {s : State} (hdone : s.phase = .done) :
    (written i s).h = s.h ∧ (written i s).n = s.n ∧ (written i s).sigma = s.sigma
      ∧ (written i s).phase = s.phase := by
  cases i with
  | nop => exact ⟨rfl, rfl, rfl, rfl⟩
  | init => exact absurd rfl hi
  | block =>
    rw [written_of_done (.inl rfl) hdone]
    exact ⟨rfl, rfl, rfl, rfl⟩
  | last len =>
    rw [written_of_done (.inr ⟨len, rfl⟩) hdone]
    exact ⟨rfl, rfl, rfl, rfl⟩

/-- Settles O41: each clause is read off what the command writes. -/
theorem commandFrames : Obligations.CommandFrames := by
  refine ⟨fun i s t h => ?_, fun s t h => ?_, fun s t h => ?_, fun s t h hdone => ?_,
    fun s t len h hdone => ?_, fun s t i h hdone hi => ?_⟩ <;> rw [← exec_next h]
  · exact ⟨rfl, written_frame i s⟩
  · rfl
  · exact written_init_architected s
  · simp [written, unlessDone_else hdone]
  · simp [written, unlessDone_else hdone]
  · exact written_data_of_done hi hdone

end Sys2Proof.Machine
end

section
/-!
Sequences of whole commands (20_memory.md section 6, 43_commands.md section 5, 60_exceptions.md section 2):
what every command keeps holds at the end, and equal architected states stay equal.
-/
namespace Sys2Proof.Machine

/-! ### What every command keeps -/

/-- A predicate that each of the commands keeps holds after all of them. -/
theorem runCommands_keeps {P : State → Prop} {cmds : List (CmdWord × Word512)}
    (hkeeps : ∀ cd ∈ cmds, ∀ s, P s → ∃ t, s.command cd.1 cd.2 = .next t ∧ P t) {s : State} (hs : P s) :
    ∃ t, runCommands cmds s = .next t ∧ P t := by
  induction cmds generalizing s with
  | nil => exact ⟨s, rfl, hs⟩
  | cons cd rest ih =>
    obtain ⟨hcd, hrest⟩ := List.forall_mem_cons.mp hkeeps
    obtain ⟨u, hcommand, hu⟩ := hcd s hs
    obtain ⟨t, hrun, ht⟩ := ih hrest hu
    exact ⟨t, (runCommands_cons hcommand rest).trans hrun, ht⟩

/-- A command taken whole leaves a core at rest, with what its completion writes from its acceptance on. -/
theorem command_completed {s : State} (hs : AtRest s) (c : CmdWord) (d : Word512) :
    ∃ t, s.command c d = .next t ∧ AtRest t
      ∧ t = (completed { s.accept c d with wait := 0 }).finish :=
  have hcommand := command_eq hs.reset c d
  ⟨_, hcommand, command_atRest hs hcommand, rfl⟩

theorem decode_ne_init {c : CmdWord} (hc : c ≠ encode .init) : decode c ≠ .ok .init := fun h =>
  hc (decode_eq_ok_iff_encode_eq.mp h).symm

/-! ### In DONE (R190) -/

/-- In `t` the digest is available, with `H`, `N` and `SIGMA` of `s`. -/
structure HoldsDigest (s t : State) : Prop where
  atRest : AtRest t
  phase : t.phase = .done
  h : t.h = s.h
  n : t.n = s.n
  sigma : t.sigma = s.sigma

theorem completed_of_done {s : State} (hdone : s.phase = .done) (hinit : decode s.cmdLatch ≠ .ok .init) :
    (completed s).h = s.h ∧ (completed s).n = s.n ∧ (completed s).sigma = s.sigma
      ∧ (completed s).phase = .done := by
  obtain ⟨-, h⟩ | ⟨-, h⟩ | ⟨hdec, -⟩ | ⟨-, -, h⟩ | ⟨-, hne, -⟩ | ⟨len, -, hne, -⟩ := completed_cases s
  · rw [h]
    exact ⟨rfl, rfl, rfl, hdone⟩
  · rw [h]
    exact ⟨rfl, rfl, rfl, hdone⟩
  · exact absurd hdec hinit
  · rw [h]
    exact ⟨rfl, rfl, rfl, hdone⟩
  · exact absurd hdone hne
  · exact absurd hdone hne

theorem HoldsDigest.command {s u : State} (hu : HoldsDigest s u) {c : CmdWord} (hc : c ≠ encode .init)
    (d : Word512) : ∃ t, u.command c d = .next t ∧ HoldsDigest s t := by
  obtain ⟨t, hcommand, hrest, ht⟩ := command_completed hu.atRest c d
  obtain ⟨hh, hn, hsigma, hphase⟩ := completed_of_done (s := { u.accept c d with wait := 0 })
    ((acceptedPhase_eq_done_iff c u.phase).mpr hu.phase) (decode_ne_init hc)
  subst ht
  exact ⟨_, hcommand, hrest, hphase, hh.trans hu.h, hn.trans hu.n, hsigma.trans hu.sigma⟩

theorem HoldsDigest.digest {s t : State} (ht : HoldsDigest s t) (hdone : s.phase = .done) :
    digest t = digest s := by
  rw [digest_of_done ht.phase, digest_of_done hdone, ht.h]

/-- Settles O50: in DONE every command but INIT keeps PHASE and the data registers. -/
theorem digestStaysUntilInit : Obligations.DigestStaysUntilInit := by
  intro cmds s hs hdone hcmds
  obtain ⟨t, hrun, ht⟩ := runCommands_keeps (P := HoldsDigest s)
    (fun cd hcd u hu => hu.command (hcmds cd hcd) cd.2) ⟨hs, hdone, rfl, rfl, rfl⟩
  exact ⟨t, hrun, ht.atRest, ht.phase, ht.h, ht.n, ht.sigma, ht.digest hdone⟩

/-! ### After an error (R221) -/

theorem completed_err {s : State} (herr : s.err = true) (hinit : decode s.cmdLatch ≠ .ok .init) :
    (completed s).err = true := by
  obtain ⟨hdec, -⟩ | ⟨hkept, -⟩ | ⟨hset, -⟩ := completed_flags s
  · exact absurd hdec hinit
  · exact hkept.trans herr
  · exact hset

theorem command_keeps_err {s : State} (hs : AtRest s) (herr : s.err = true) {c : CmdWord}
    (hc : c ≠ encode .init) (d : Word512) :
    ∃ t, s.command c d = .next t ∧ AtRest t ∧ t.err = true := by
  obtain ⟨t, hcommand, hrest, rfl⟩ := command_completed hs c d
  exact ⟨_, hcommand, hrest,
    completed_err (s := { s.accept c d with wait := 0 }) herr (decode_ne_init hc)⟩

theorem dvalid_of_err {s : State} (herr : s.err = true) : dvalid s = false := by simp [dvalid, herr]

theorem readDigest_of_err {s : State} (herr : s.err = true) : readDigest s = .error .noDigest :=
  if_neg (by simp [herr])

/-- Settles O53: every command but INIT keeps ERR, and no digest is valid or read with ERR. -/
theorem noDigestAfterAnError : Obligations.NoDigestAfterAnError := by
  intro cmds s hs herr hcmds
  obtain ⟨t, hrun, -, ht⟩ := runCommands_keeps (P := fun s => AtRest s ∧ s.err = true)
    (fun cd hcd _ ⟨hu, huerr⟩ => command_keeps_err hu huerr (hcmds cd hcd) cd.2) ⟨hs, herr⟩
  exact ⟨t, hrun, ht, dvalid_of_err ht, readDigest_of_err ht⟩

/-! ### Equal architected states -/

theorem written_architected_congr (i : Instr) {s t : State} (harch : s.architected = t.architected)
    (hdin : s.dinLatch = t.dinLatch) : (written i s).architected = (written i t).architected := by
  cases i with
  | nop => exact harch
  | init => exact (written_init_architected s).trans (written_init_architected t).symm
  | block =>
    obtain ⟨hh, hn, hsigma, hphase, herr, hcode⟩ := State.architected_eq_iff.mp harch
    by_cases hdone : t.phase = .done
    · rw [written_of_done (.inl rfl) (hphase.trans hdone), written_of_done (.inl rfl) hdone,
        State.raiseError_architected, State.raiseError_architected, harch]
    · rw [written, written, unlessDone_else (hphase ▸ hdone), unlessDone_else hdone]
      simp [State.architected_eq_iff, hdin, hh, hn, hsigma, hphase, herr, hcode]
  | last len => exact written_last_architected_congr harch (by rw [hdin])

/-- A completion depends on the architected state and on what was accepted. -/
theorem completed_architected_congr {s t : State} (harch : s.architected = t.architected)
    (hcmd : s.cmdLatch = t.cmdLatch) (hdin : s.dinLatch = t.dinLatch) :
    (completed s).architected = (completed t).architected := by
  rw [completed, completed, hcmd]
  cases decode t.cmdLatch with
  | error e =>
    exact (s.raiseError_architected _).trans ((congrArg (Architected.withError · _) harch).trans
      (t.raiseError_architected _).symm)
  | ok i => exact written_architected_congr i harch hdin

theorem accept_architected_congr {s t : State} (harch : s.architected = t.architected) (c : CmdWord)
    (d : Word512) : (s.accept c d).architected = (t.accept c d).architected := by
  obtain ⟨hh, hn, hsigma, hphase, herr, hcode⟩ := State.architected_eq_iff.mp harch
  simp [State.architected_eq_iff, hh, hn, hsigma, hphase, herr, hcode]

theorem runCommands_architected_congr (cmds : List (CmdWord × Word512)) {s s' : State} (hs : AtRest s)
    (hs' : AtRest s') (harch : s.architected = s'.architected) :
    ∃ t t', runCommands cmds s = .next t ∧ runCommands cmds s' = .next t' ∧ AtRest t ∧ AtRest t'
      ∧ t.architected = t'.architected := by
  induction cmds generalizing s s' with
  | nil => exact ⟨s, s', rfl, rfl, hs, hs', harch⟩
  | cons cd rest ih =>
    obtain ⟨c, d⟩ := cd
    obtain ⟨u, hu, hrest, rfl⟩ := command_completed hs c d
    obtain ⟨u', hu', hrest', rfl⟩ := command_completed hs' c d
    rw [runCommands_cons hu, runCommands_cons hu']
    exact ih hrest hrest' (completed_architected_congr
      (s := { s.accept c d with wait := 0 }) (t := { s'.accept c d with wait := 0 })
      (accept_architected_congr harch c d) rfl rfl)

/-- Settles O51: INIT makes the architected states equal, and the same commands keep them equal. -/
theorem resultDependsOnlyOnCommandsSinceInit : Obligations.ResultDependsOnlyOnCommandsSinceInit := by
  intro cmds d s s' hs hs'
  have hinit := command_encode hs.reset .init d
  have hinit' := command_encode hs'.reset .init d
  obtain ⟨t, t', hrun, hrun', ht, ht', harch⟩ := runCommands_architected_congr cmds
    (command_atRest hs hinit) (command_atRest hs' hinit') rfl
  exact ⟨t, t', (runCommands_cons hinit cmds).trans hrun, (runCommands_cons hinit' cmds).trans hrun',
    harch, status_congr harch (ht.idle.trans ht'.idle.symm), digest_congr harch⟩

/-! ### Commands offered in order (20_memory.md R61) -/

/-- A host that offers the commands in order with no quiet edge and idles while each executes. -/
def orderedDrive : List (CmdWord × Word512) → Phase → List Ports
  | [], _ => []
  | (c, d) :: cmds, p =>
    Ports.offer c d :: (List.replicate (acceptedWait c p + 1) .idle ++ orderedDrive cmds (phaseAfter c p))

theorem offersInOrder_orderedDrive (cmds : List (CmdWord × Word512)) (p : Phase) :
    OffersInOrder cmds p (orderedDrive cmds p) := by
  induction cmds generalizing p with
  | nil => rfl
  | cons cd rest ih =>
    obtain ⟨c, d⟩ := cd
    exact ⟨[], _, _, rfl, List.forall_mem_nil _, noReset_replicate_idle _, List.length_replicate,
      ih (phaseAfter c p)⟩

theorem drivesTo_quiet {s : State} (hs : AtRest s) {quiet : List Ports}
    (hquiet : ∀ q ∈ quiet, q.rst = false ∧ q.cmdValid = false) : DrivesTo quiet s s := by
  induction quiet with
  | nil => exact drivesTo_nil s
  | cons q qs ih =>
    obtain ⟨⟨hrst, hvalid⟩, hqs⟩ := List.forall_mem_cons.mp hquiet
    intro rest
    have hstep := step_of_idle (s := s.facing (q :: (qs ++ rest))) hs.reset hs.idle hrst
    have hports : (s.facing (q :: (qs ++ rest))).ports.cmdValid = false := hvalid
    rw [hports, if_neg Bool.false_ne_true] at hstep
    exact (run_succ hstep _).trans (ih hqs rest)

/-- The edges of a drive that offers the commands in order are the commands' effects, in order. -/
theorem drivesTo_of_offersInOrder {cmds : List (CmdWord × Word512)} {s : State} (hs : AtRest s)
    {drive : List Ports} (hoffers : OffersInOrder cmds s.phase drive) :
    ∃ t, DrivesTo drive s t ∧ runCommands cmds s = .next t ∧ AtRest t := by
  induction cmds generalizing s drive with
  | nil =>
    obtain rfl : drive = [] := hoffers
    exact ⟨s, drivesTo_nil s, rfl, hs⟩
  | cons cd rest ih =>
    obtain ⟨c, d⟩ := cd
    obtain ⟨quiet, busy, later, rfl, hquiet, hnoReset, hlen, hlater⟩ := hoffers
    obtain ⟨u, hcommand, hu, -⟩ := command_completed hs c d
    rw [← command_phase hs.reset hcommand] at hlater
    obtain ⟨t, hdrives, hrun, ht⟩ := ih hu hlater
    refine ⟨t, (drivesTo_quiet hs hquiet).append ?_, (runCommands_cons hcommand rest).trans hrun, ht⟩
    exact (drivesTo_offer hs hcommand hnoReset hlen).append hdrives

/-- Commands read nothing of the host's later drive. -/
theorem runCommands_facing {cmds : List (CmdWord × Word512)} {s t : State} (hs : AtRest s)
    (h : runCommands cmds s = .next t) (drive : List Ports) :
    runCommands cmds (s.facing drive) = .next (t.facing drive) := by
  induction cmds generalizing s with
  | nil => rw [runCommands_nil, Host.Outcome.next.inj h]
  | cons cd rest ih =>
    obtain ⟨c, d⟩ := cd
    obtain ⟨u, hcommand, hu, -⟩ := command_completed hs c d
    rw [runCommands_cons hcommand] at h
    rw [runCommands_cons (command_facing hs.reset hcommand drive)]
    exact ih hu h

/-- Settles O29: quiet edges change nothing, and the edges of each command are its effect. -/
theorem commandsComposeInOrder : Obligations.CommandsComposeInOrder := by
  refine fun cmds s hs => ⟨⟨_, offersInOrder_orderedDrive cmds s.phase⟩, fun drive rest hoffers => ?_⟩
  obtain ⟨t, hdrives, hrun, ht⟩ := drivesTo_of_offersInOrder hs hoffers
  exact ⟨t.facing rest, hdrives rest, runCommands_facing hs hrun rest, ht.reset, ht.idle, ht.phase⟩

end Sys2Proof.Machine
end

section
/-!
The interleaved schedule (42_compression.md section 4): before each round it holds that round's key of R150
and that round's cipher state of R155.
-/
namespace Sys2Proof.Machine

theorem take_roundConstants_succ {r : Nat} (hr : r < 12) :
    tables.roundConstants.take (r + 1) = tables.roundConstants.take r ++ [roundConstantAt r] := by
  have hlen : r < tables.roundConstants.length := hr.trans_eq length_roundConstants.symm
  rw [List.take_succ_eq_append_getElem hlen, roundConstantAt, Tables.roundConstantAt,
    List.getD_eq_getElem _ _ hlen]

theorem engine_before_round (n h m : Word512) {r : Nat} (hr : r ≤ 12) :
    (tables.roundConstants.take r).foldl engineRound (lps (xor512 h n), m)
      = ((keySchedule n h).getD r 0, cipherState (keySchedule n h) m r) := by
  induction r with
  | zero => rw [getD_keySchedule_zero, List.take_zero, List.foldl_nil, cipherState]
  | succ r ih =>
    rw [take_roundConstants_succ hr, List.foldl_append, ih (Nat.le_of_succ_le hr),
      getD_keySchedule_succ n h hr, List.foldl_cons, List.foldl_nil, engineRound, cipherState]

theorem compressInterleaved_eq (n h m : Word512) : compressInterleaved n h m = compress n h m := by
  have hall := engine_before_round n h m (Nat.le_refl 12)
  rw [← length_roundConstants, List.take_length, length_roundConstants] at hall
  rw [compress_eq, encrypt_eq_cipherState (length_keySchedule n h), compressInterleaved, hall]

/-- Settles O15: after twelve rounds the schedule holds the last key, which the cipher adds. -/
theorem interleavedScheduleComputesCompression : Obligations.InterleavedScheduleComputesCompression :=
  ⟨fun n h m _ hr => congrArg Prod.fst (engine_before_round n h m hr), compressInterleaved_eq⟩

end Sys2Proof.Machine
end

section
/-!
Several cores on one platform (20_memory.md R66, 60_exceptions.md R236): an edge of the platform is an edge
of one core.
-/
namespace Sys2Proof.Machine

/-- `cores` come to `cores'` by edges of which core `k` has `edges k`. -/
def EachRuns (edges : Nat → Nat) (cores cores' : List State) : Prop :=
  cores'.length = cores.length
    ∧ ∀ (k : Nat) (s : State), cores[k]? = some s →
        ∃ s' : State, cores'[k]? = some s' ∧ core.run (edges k) s = .next s'

theorem EachRuns.trans {edges edges' : Nat → Nat} {cores cores' cores'' : List State}
    (h : EachRuns edges cores cores') (h' : EachRuns edges' cores' cores'') :
    EachRuns (fun k => edges k + edges' k) cores cores'' := by
  refine ⟨h'.1.trans h.1, fun k s hs => ?_⟩
  obtain ⟨t, ht, hrun⟩ := h.2 k s hs
  obtain ⟨u, hu, hrun'⟩ := h'.2 k t ht
  exact ⟨u, hu, (run_add _ hrun).trans hrun'⟩

/-- A core without an edge stays in its state. -/
theorem run_of_other_core {k j : Nat} (hne : k ≠ j) (s : State) : core.run ([k].count j) s = .next s := by
  have hcount : [k].count j = 0 := List.count_eq_zero.mpr (by simpa using hne.symm)
  exact (congrArg (core.run · s) hcount).trans (run_zero s)

/-- An edge of core `k`, if there is such a core, is one edge of it and none of the others. -/
theorem eachRuns_stepCore {k : Nat} {cores cores' : List State} (h : stepCore k cores = .next cores') :
    EachRuns (fun j => [k].count j) cores cores' := by
  unfold stepCore at h
  cases hk : cores[k]? with
  | none =>
    obtain rfl := Host.Outcome.next.inj (hk ▸ h)
    refine ⟨rfl, fun j s hs => ⟨s, hs, run_of_other_core (fun hkj => ?_) s⟩⟩
    simp [← hkj, hk] at hs
  | some s =>
    rw [hk] at h
    cases hedge : clockEdge s with
    | fault r => simp [hedge] at h
    | refused r => simp [hedge] at h
    | next t =>
      simp only [hedge, Host.Outcome.next.injEq] at h
      subst h
      refine ⟨List.length_set, fun j u hu => ?_⟩
      rcases eq_or_ne k j with rfl | hne
      · obtain rfl : s = u := Option.some.inj (hk.symm.trans hu)
        obtain ⟨hlt, -⟩ := List.getElem?_eq_some_iff.mp hk
        have hrun := (run_one s).trans hedge
        rw [← List.count_singleton_self (a := k)] at hrun
        exact ⟨t, List.getElem?_set_self hlt, hrun⟩
      · exact ⟨u, (List.getElem?_set_ne hne).trans hu, run_of_other_core hne u⟩

theorem eachRuns_stepCores {ks : List Nat} {cores cores' : List State}
    (h : stepCores ks cores = .next cores') : EachRuns (fun j => ks.count j) cores cores' := by
  induction ks generalizing cores with
  | nil =>
    obtain rfl := Host.Outcome.next.inj h
    exact ⟨rfl, fun k s hs => ⟨s, hs, rfl⟩⟩
  | cons k ks ih =>
    rw [stepCores] at h
    cases hstep : stepCore k cores with
    | fault r => simp [hstep] at h
    | refused r => simp [hstep] at h
    | next between =>
      simp only [hstep] at h
      have hsplit : (fun j => (k :: ks).count j) = fun j => [k].count j + ks.count j := by
        funext j
        rw [← List.count_append, List.singleton_append]
      rw [hsplit]
      exact (eachRuns_stepCore hstep).trans (ih h)

/-- Settles O60: an edge of the platform is an edge of one core, and the edges of each core add up. -/
theorem coresAreIndependent : Obligations.CoresAreIndependent := fun _ _ _ => eachRuns_stepCores

end Sys2Proof.Machine
end

section
/-!
The block split of a message in numbers (44_host_boundary.md R205), and the commands of the assembler's lines
(30_encoding.md R80, R81).
-/
namespace Sys2Proof.Machine

/-! ### The blocks and the tail as digits -/

/-- A number is its last `q` digits in base `b` and what stands above them. -/
theorem eq_high_add_sum_digits (b v q : Nat) :
    v = v / b ^ q * b ^ q + ((List.range q).map fun j => v / b ^ j % b * b ^ j).sum := by
  induction q with
  | zero => simp
  | succ q ih =>
    have hdigit : v / b ^ q = v / b ^ (q + 1) * b + v / b ^ q % b := by
      rw [pow_succ, ← Nat.div_div_eq_div_mul, Nat.div_add_mod']
    rw [List.range_succ, List.map_append, List.sum_append, List.map_singleton, List.sum_singleton]
    calc v = v / b ^ q * b ^ q + ((List.range q).map fun j => v / b ^ j % b * b ^ j).sum := ih
      _ = (v / b ^ (q + 1) * b + v / b ^ q % b) * b ^ q
            + ((List.range q).map fun j => v / b ^ j % b * b ^ j).sum := by rw [← hdigit]
      _ = _ := by ring

theorem toNat_messageBlock (m : Message) (j : Nat) :
    (messageBlock m (j + 1)).toNat = m.value / 2 ^ (512 * j) % 2 ^ 512 := by
  rw [messageBlock, toNat_intToBits, Nat.mod_mod, Nat.shiftRight_eq_div_pow, Nat.add_sub_cancel]

theorem toNat_tailLength (m : Message) : (tailLength m).toNat = m.length % 512 :=
  (toNat_intToBits _ 9).trans (Nat.mod_mod _ _)

theorem length_eq_blocks_and_tail (m : Message) :
    m.length = 512 * blockCount m + (tailLength m).toNat := by
  rw [toNat_tailLength, blockCount, Nat.div_add_mod]

section
variable {m : Message} (hm : m.value < 2 ^ m.length)
include hm

/-- What stands above the blocks has the bits of the tail. -/
theorem value_div_lt : m.value / 2 ^ (512 * blockCount m) < 2 ^ (tailLength m).toNat := by
  rw [length_eq_blocks_and_tail m, pow_add] at hm
  exact Nat.div_lt_of_lt_mul hm

theorem toNat_tailValue : (tailValue m).toNat = m.value / 2 ^ (512 * blockCount m) := by
  have hlt := (value_div_lt hm).trans (Nat.pow_lt_pow_right Nat.one_lt_two (tailLength m).isLt)
  rw [tailValue, toNat_intToBits, Nat.shiftRight_eq_div_pow, Nat.mod_eq_of_lt hlt]

end

/-- Settles O54: the blocks are the last digits of the message in base `2 ^ 512`, the tail is the rest. -/
theorem blockSplitIsTheMessage : Obligations.BlockSplitIsTheMessage := by
  refine fun m hm => ⟨?_, ?_, length_eq_blocks_and_tail m, rfl⟩
  · rw [toNat_tailValue hm]
    simp only [toNat_messageBlock, pow_mul]
    exact eq_high_add_sum_digits (2 ^ 512) m.value (blockCount m)
  · rw [toNat_tailValue hm]
    exact value_div_lt hm

/-! ### The lines of the assembler -/

theorem assemble_last_of_out_of_range {len v : Nat} (h : 511 < len ∨ 2 ^ len ≤ v) :
    ∃ e, assemble (.last len v) = .error e := by
  rw [assemble]
  split
  · exact ⟨_, rfl⟩
  · exact ⟨_, if_pos (by omega)⟩

theorem encode_last_intToBits {len : Nat} (hlen : len ≤ 511) :
    encode (.last (intToBits len 9)) = BitVec.ofNat 16 (0x3000 + len) := by
  rw [encode_last_eq_ofNat, toNat_intToBits, Nat.mod_eq_of_lt (by omega)]

theorem assemble_hashBits {m : Message} (hm : m.value < 2 ^ m.length) :
    assemble (.hashBits m.length m.value) = .ok (hashCommands m) :=
  if_neg (Nat.not_le_of_lt hm)

/-- The commands of HASHBITS, written out (R81). -/
theorem hashCommands_eq_words (m : Message) :
    hashCommands m
      = (0x1000, 0)
          :: (List.range (m.length / 512)).map
              (fun j => (0x2000, BitVec.ofNat 512 (m.value / 2 ^ (512 * j) % 2 ^ 512)))
          ++ [(BitVec.ofNat 16 (0x3000 + m.length % 512),
              BitVec.ofNat 512 (m.value / 2 ^ (512 * (m.length / 512))))] := by
  have hblock : ∀ j, messageBlock m (j + 1) = BitVec.ofNat 512 (m.value / 2 ^ (512 * j) % 2 ^ 512) :=
    fun j => by rw [messageBlock, Nat.shiftRight_eq_div_pow, Nat.add_sub_cancel, intToBits]
  have htail : tailValue m = BitVec.ofNat 512 (m.value / 2 ^ (512 * (m.length / 512))) := by
    rw [tailValue, Nat.shiftRight_eq_div_pow, blockCount, intToBits]
  rw [hashCommands, messageCommands, encode_last_eq_ofNat, toNat_tailLength, htail]
  simp only [hblock]
  rfl

theorem assemble_hashHex {s : List Char} {m : Message} (h : normalizeHex s = .ok m) :
    assemble (.hashHex s) = .ok (hashCommands m) := by
  rw [assemble, h]

theorem assemble_hashHex_of_not_mem {s : List Char} (h : ∃ ch ∈ s, ch ∉ hexChars) :
    assemble (.hashHex s) = .error .invalidHexInput := by
  rw [assemble, normalizeHex_of_not_mem h]

theorem utf8Bytes_lt (s : List Char) : ∀ b ∈ utf8Bytes s, b < 256 := by
  intro b hb
  obtain ⟨ch, -, hch⟩ := List.mem_flatMap.mp hb
  obtain ⟨byte, -, rfl⟩ := List.mem_map.mp hch
  exact byte.toNat_lt

theorem normalizeRaw_bounds (s : List Char) : (normalizeRaw s).value < 2 ^ (normalizeRaw s).length := by
  rw [normalizeRaw, pow_mul]
  exact ofDigits_lt (by decide) (utf8Bytes_lt s)

/-- Settles O59: each line assembles to the encodings of its commands, and a pseudo-command to those of
R205 for its message. -/
theorem assemblerForms : Obligations.AssemblerForms := by
  refine ⟨rfl, rfl, fun v => rfl, fun len v hlen hv => ?_, fun len v => assemble_last_of_out_of_range,
    fun n v hv => ?_, fun n v hv => if_pos hv, fun s m h => ?_, fun s => assemble_hashHex_of_not_mem,
    fun s => (assemble_hashBits (normalizeRaw_bounds s)).symm, rfl⟩
  · rw [assemble_last hlen hv, encode_last_intToBits hlen, intToBits]
  · rw [← hashCommands_eq_words { value := v, length := n }]
    exact assemble_hashBits (m := { value := v, length := n }) hv
  · obtain ⟨-, hlt⟩ := normalizeHex_bounds h
    rw [assemble_hashHex h, assemble_hashBits hlt]

end Sys2Proof.Machine
end

section
/-!
The contract `hash` (44_host_boundary.md R200 to R210): the normalized bits, the run of R205 on the core with
its result read, and the bytes of RAW_UTF8.
-/
namespace Sys2Proof.Machine

/-! ### The bits of a normalized input (R200) -/

theorem bitsOf_succ (v n : Nat) : bitsOf v (n + 1) = v.testBit n :: bitsOf v n := by
  have hpos : (fun k => v.testBit (n + 1 - 1 - k)) ∘ Nat.succ = fun k => v.testBit (n - 1 - k) := by
    funext k
    rw [Function.comp_apply, Nat.succ_eq_add_one, Nat.add_sub_cancel, Nat.add_comm k, Nat.sub_sub]
  rw [bitsOf, List.range_succ_eq_map, List.map_cons, List.map_map, hpos, bitsOf]
  rfl

theorem length_bitsOf (v n : Nat) : (bitsOf v n).length = n := by
  rw [bitsOf, List.length_map, List.length_range]

theorem bitsValue_bitsOf (v n : Nat) : bitsValue (bitsOf v n) = v % 2 ^ n := by
  induction n with
  | zero => exact (Nat.mod_one v).symm
  | succ n ih =>
    have hbit : bitsValue [v.testBit n] = v / 2 ^ n % 2 := by
      rw [← Nat.toNat_testBit]
      exact Nat.zero_add _
    rw [bitsOf_succ, ← List.singleton_append, bitsValue_append, ih, length_bitsOf, hbit,
      Nat.mod_pow_succ, Nat.add_comm, Nat.mul_comm]

/-- A pair `(V, n)` with `V` below `2 ^ n` is the message of its bits. -/
theorem messageOf_bitsOf {m : Message} (hm : m.value < 2 ^ m.length) :
    messageOf (bitsOf m.value m.length) = m := by
  rw [messageOf, bitsValue_bitsOf, length_bitsOf, Nat.mod_eq_of_lt hm]

theorem normalize_bounds {mode : Mode} {input : List Char} {m : Message}
    (h : normalize mode input = .ok m) : m.value < 2 ^ m.length := by
  cases mode with
  | rawUtf8 =>
    obtain rfl := Except.ok.inj h
    exact normalizeRaw_bounds input
  | hex => exact (normalizeHex_bounds h).2

/-! ### The run of a message and its result (R205, R209) -/

/-- `H` after the source's algorithm on a message, in the terms of its blocks and tail. -/
def finalValue (m : Message) : Word512 :=
  ((messageBlocks m).foldl Running.absorb .start).finalize (tailLength m) (tailValue m)

theorem referenceHash_bitsOf {m : Message} (hm : m.value < 2 ^ m.length) :
    referenceHash (bitsOf m.value m.length) = (finalValue m).extractLsb' 256 256 := by
  rw [referenceHash_eq, messageOf_bitsOf hm, finalValue]

theorem runCommands_messageCommands {s : State} (hs : Tracks .start s) (m : Message) :
    ∃ t, runCommands (messageCommands m) s = .next t ∧ Finished (finalValue m) t := by
  obtain ⟨u, hblocks, hu⟩ := runCommands_blocks_tracks (messageBlocks m) hs
  obtain ⟨t, hlast, ht⟩ := command_last_finished hu (tailLength m) (tailValue m)
  rw [messageCommands_eq, runCommands_append _ _ hblocks, runCommands_cons hlast]
  exact ⟨t, rfl, ht⟩

theorem runCommands_hashCommands {s : State} (hs : AtRest s) (m : Message) :
    ∃ t, runCommands (hashCommands m) s = .next t ∧ Finished (finalValue m) t := by
  obtain ⟨u, hinit, hu⟩ := command_init_tracks hs 0
  obtain ⟨t, hrun, ht⟩ := runCommands_messageCommands hu m
  exact ⟨t, (runCommands_cons hinit _).trans hrun, ht⟩

/-- A host that drives no reset reads the digest of a finished message. -/
theorem Finished.readDigest {h : Word512} {t : State} (ht : Finished h t) :
    readDigest (t.facing []) = .ok (h.extractLsb' 256 256) := by
  have hready : cmdReady (t.facing []) = true := cmdReady_of_idle (s := t.facing []) ht.atRest.idle rfl
  have hvalid : Machine.dvalid (t.facing []) = true := ht.dvalid
  have hreset : (t.facing []).resetSeen = true := ht.atRest.reset
  have herr : (t.facing []).err = false := ht.err
  have hdigest : Machine.digest (t.facing []) = h.extractLsb' 256 256 := ht.digest
  rw [Machine.readDigest, hready, hvalid, hreset, herr, hdigest]
  rfl

theorem coreHash_of_normalize_ok {mode : Mode} {input : List Char} {m : Message} {s : State}
    (hs : AtRest s) (hm : normalize mode input = .ok m) :
    coreHash mode input s = .ok (hexOut (referenceHash (bitsOf m.value m.length))) := by
  obtain ⟨t, hrun, ht⟩ := runCommands_hashCommands hs m
  have hfacing : runCommands (hashCommands m) { s with inputs := [] } = .next (t.facing []) :=
    runCommands_facing hs hrun []
  rw [coreHash, hm]
  simp only [hfacing, ht.readDigest, referenceHash_bitsOf (normalize_bounds hm)]
  rfl

theorem coreHash_eq {mode : Mode} {input : List Char} {s : State} (hs : AtRest s) :
    coreHash mode input s
      = (normalize mode input).map fun m => hexOut (referenceHash (bitsOf m.value m.length)) := by
  cases hm : normalize mode input with
  | error e => rw [coreHash, hm, Except.map]
  | ok m => exact coreHash_of_normalize_ok hs hm

theorem length_of_coreHash {mode : Mode} {input out : List Char} {s : State} (hs : AtRest s)
    (h : coreHash mode input s = .ok out) : out.length = 64 := by
  rw [coreHash_eq hs] at h
  cases hm : normalize mode input with
  | error e => simp [hm, Except.map] at h
  | ok m =>
    rw [hm] at h
    obtain rfl := Except.ok.inj h
    exact length_hexOut _

/-- R205: directly after reset INIT may be left out, since reset leaves what INIT leaves. -/
theorem readDigest_after_reset {mode : Mode} {input : List Char} {m : Message}
    (hm : normalize mode input = .ok m) :
    ∃ t, runCommands (messageCommands m) State.reset = .next t
      ∧ readDigest t = .ok (referenceHash (bitsOf m.value m.length)) := by
  obtain ⟨t, hrun, ht⟩ := runCommands_messageCommands tracks_reset m
  have hdrive := runCommands_facing tracks_reset.atRest hrun []
  exact ⟨t.facing [], hdrive, ht.readDigest.trans
    (congrArg Except.ok (referenceHash_bitsOf (normalize_bounds hm)).symm)⟩

/-! ### The bytes of RAW_UTF8 (R201) -/

/-- A number from its digits, first digit most significant, as the sum that R201 writes. -/
theorem ofDigits_eq_sum (b : Nat) (ds : List Nat) :
    ofDigits b ds
      = ((List.range ds.length).map fun i => ds.getD i 0 * b ^ (ds.length - 1 - i)).sum := by
  induction ds with
  | nil => rfl
  | cons d ds ih =>
    have hd : ofDigits b [d] = d := by simp [ofDigits]
    have hrest : (fun i => (d :: ds).getD i 0 * b ^ (ds.length + 1 - 1 - i)) ∘ Nat.succ
        = fun i => ds.getD i 0 * b ^ (ds.length - 1 - i) := by
      funext i
      rw [Function.comp_apply, Nat.succ_eq_add_one, List.getD_cons_succ, Nat.add_sub_cancel,
        Nat.add_comm i, Nat.sub_sub]
    rw [← List.singleton_append, ofDigits_append, ih, hd, List.singleton_append, List.length_cons,
      List.range_succ_eq_map, List.map_cons, List.sum_cons, List.map_map, hrest, List.getD_cons_zero,
      Nat.add_sub_cancel, Nat.sub_zero]

theorem utf8Bytes_append (a b : List Char) : utf8Bytes (a ++ b) = utf8Bytes a ++ utf8Bytes b :=
  List.flatMap_append

theorem toNat_lt_of_char (ch : Char) : ch.toNat < 0x110000 := by
  obtain h | ⟨-, h⟩ := ch.valid
  · exact Nat.lt_trans h (by decide)
  · exact h

/-- The UTF-8 bytes of one character by the range of its code point (log 8). -/
theorem utf8Bytes_singleton (ch : Char) :
    utf8Bytes [ch] =
      if ch.toNat < 0x80 then [ch.toNat]
      else if ch.toNat < 0x800 then [0xc0 + ch.toNat / 64, 0x80 + ch.toNat % 64]
      else if ch.toNat < 0x10000 then
        [0xe0 + ch.toNat / 4096, 0x80 + ch.toNat / 64 % 64, 0x80 + ch.toNat % 64]
      else
        [0xf0 + ch.toNat / 262144, 0x80 + ch.toNat / 4096 % 64, 0x80 + ch.toNat / 64 % 64,
          0x80 + ch.toNat % 64] := by
  have hlt := toNat_lt_of_char ch
  have hval : ch.val.toNat = ch.toNat := rfl
  rw [utf8Bytes, List.flatMap_singleton, String.utf8EncodeChar]
  simp only [hval]
  generalize ch.toNat = v at hlt ⊢
  split_ifs <;>
    simp only [List.map_cons, List.map_nil, UInt8.toNat_ofNat', List.cons.injEq, and_true] <;> omega

/-- Settles O56: the run of R205 leaves the reference digest of the normalized bits, whatever the core held
before, and the bytes of a string are the digits of its bits in base 256. -/
theorem hashContract : Obligations.HashContract := by
  refine ⟨fun mode input s hs => ?_, fun mode input s out hs => length_of_coreHash hs,
    fun mode input s s' hs hs' => (coreHash_eq hs).trans (coreHash_eq hs').symm,
    fun s hs => (coreHash_eq hs).trans (coreHash_eq hs).symm, fun mode input m => readDigest_after_reset,
    fun input => ⟨rfl, rfl, utf8Bytes_lt input, ?_⟩, utf8Bytes_append, utf8Bytes_singleton⟩
  · rw [coreHash_eq hs]
    cases normalize mode input <;> rfl
  · rw [normalizeRaw, ofDigits_eq_sum]
    simp only [pow_mul, Nat.reducePow]

end Sys2Proof.Machine
end
